-- ==== Sys2Proof/Word.lean ====
section
/-! DEFINITION. The word types of Charm (00_scope.md R5, R7, R9): 32-bit words, 8-bit bytes, 4-bit
register numbers. Arithmetic on words is `BitVec` arithmetic, modulo 2^32. -/

namespace Sys2Proof

/-- A 32-bit value: a register, an address, an instruction word (R5, R9). -/
abbrev Word := BitVec 32

/-- One byte of memory; a byte has 8 bits (R5, log 27). -/
abbrev Byte := BitVec 8

/-- A 4-bit register number, of a general or a kernel register (R5, R21, R36). -/
abbrev RegNum := BitVec 4

end Sys2Proof
end

