-- ==== Sys2Proof/Config.lean ====
section
/-! DEFINITION. The implementation parameters of 00_scope.md R6. Those that are plain data form the
record `Params`, which the state carries and no step writes (log 1); those that are functions are
opaque constants, of which nothing can be proved but what holds for every function (log 14 to 18).
The values the parameters have at reset are in `Machine/Defaults.lean`. -/

namespace Sys2Proof

/-- `BYTE_ORDER` (R54, R58). -/
inductive ByteOrder
  | little
  | big
  deriving DecidableEq, Repr

/-- How a field narrower than a word is extended (R9). -/
inductive Extension
  | zero
  | sign
  deriving DecidableEq, Repr

/-- `SBC_BORROW` (R149): `arm` subtracts 1 - C, `plain` subtracts C. -/
inductive SbcBorrow
  | arm
  | plain
  deriving DecidableEq, Repr

/-- `DIV0` (R143): a zero divisor faults, or the result is a draw. -/
inductive DivZero
  | fault
  | draw
  deriving DecidableEq, Repr

/-- `BANKING` (R33): register numbers 13 and 14 are banked by mode, or always name the user bank. -/
inductive Banking
  | banked
  | none
  deriving DecidableEq, Repr

/-- A parameter that is a function: the spec's default function, or another one, which is then the
opaque constant of the same name (R6: `DivS`, `ModS`, `IndexShift`). -/
inductive FunctionChoice
  | standard
  | given
  deriving DecidableEq, Repr

/-- `IoDevice` (R224): absent, or given by the opaque `Config.ioDevice`. -/
inductive IoPresence
  | absent
  | given
  deriving DecidableEq, Repr

/-- The configuration switch of R38 for kr7 to kr15: access refused, or plain storage. -/
inductive KrStorage
  | refused
  | plain
  deriving DecidableEq, Repr

/-- The three modes (R33, R247). -/
inductive Mode
  | user
  | kernel
  | interrupt
  deriving DecidableEq, Repr

/-- `LAYOUT` (R82): the lowest bit of each field in the instruction word. The widths are fixed (R5). -/
structure Layout where
  opcode : Nat
  rd : Nat
  rm : Nat
  rn : Nat
  imm12 : Nat
  imm16 : Nat
  imm20 : Nat
  deriving DecidableEq, Repr

/-- `CPSR_POS` (R29): the bit position of each of the eight named flags. -/
structure CpsrPos where
  n : BitVec 5
  z : BitVec 5
  c : BitVec 5
  v : BitVec 5
  u : BitVec 5
  k : BitVec 5
  i : BitVec 5
  os : BitVec 5
  deriving DecidableEq, Repr

/-- One interval of addresses that hold memory. `MemMap` is a list of them (R52). -/
structure Region where
  base : Nat
  size : Nat
  deriving DecidableEq, Repr

/-- The parameters of R6 that are plain data, each under the spec's name for it. -/
structure Params where
  /-- `LAYOUT` (R82). -/
  layout : Layout
  /-- `BYTE_ORDER` (R58). -/
  byteOrder : ByteOrder
  /-- `PC_READ_OFFSET` (R24). -/
  pcReadOffset : Word
  /-- `IMM16_EXT` for an arithmetic op2; load/store offsets are always sign-extended (R94). -/
  arithImm16Ext : Extension
  /-- `IndexShift` (R122). -/
  indexShift : FunctionChoice
  /-- `LDB_EXT` (R111). -/
  ldbExt : Extension
  /-- `CMP_WRITES_CV` (R172). -/
  cmpWritesCV : Bool
  /-- `SBC_BORROW` (R149). -/
  sbcBorrow : SbcBorrow
  /-- `DivS` and its pair `ModS` (R143, R144). -/
  divS : FunctionChoice
  /-- `DIV0` (R143). -/
  div0 : DivZero
  /-- `BANKING` (R33). -/
  banking : Banking
  /-- `OS_BASE` (R220), the address `ker` sends the pc to. -/
  osBase : Word
  /-- `KER_IMM_EXT` (R220). -/
  kerImmExt : Extension
  /-- `PRIV_CHECK` (R228). -/
  privCheck : Bool
  /-- `IoDevice` (R224). -/
  ioDevice : IoPresence
  /-- The switch of R38. -/
  krStorage : KrStorage
  /-- `TIMER_PRESENT` (R251). -/
  timerPresent : Bool
  /-- `TMR_VECTOR` (R252), the address the timer interrupt sends the pc to. -/
  tmrVector : Word
  /-- `MODE0`, the mode the launch started in (R270, R275). -/
  launchMode : Mode
  /-- `END_PC` (R274), if the launch gives one. -/
  endPc : Option Word
  /-- `MemMap` (R52). -/
  memMap : List Region
  /-- `CPSR_POS` (R29). -/
  cpsrPos : CpsrPos
  deriving DecidableEq, Repr

/-- One earlier `ioi` step: its location, and the general registers r0 to r14 and the memory it saw
(R224, "the history of earlier `ioi` steps"). -/
structure IoStep where
  location : BitVec 20
  regs : Vector Word 15
  mem : List Host.Cell
  deriving DecidableEq, Repr

namespace Config

/-- `FAdd` (R156). -/
opaque fAdd : Word → Word → Word

/-- `FSub` (R156). -/
opaque fSub : Word → Word → Word

/-- `FMul` (R156). -/
opaque fMul : Word → Word → Word

/-- `FDiv` (R156). -/
opaque fDiv : Word → Word → Word

/-- `FToI` (R156, R179). -/
opaque fToI : Word → Word

/-- `IToF` (R156, R180). -/
opaque iToF : Word → Word

/-- `FCmp` (R156, R181): the pair (N, Z). -/
opaque fCmp : Word → Word → Bool × Bool

/-- A `DivS` other than the default (R143, log 17). -/
opaque divS : Word → Word → Word

/-- An `IndexShift` other than the default (R122, log 17). -/
opaque indexShift : Word → BitVec 12 → Word

/-- The draw that `DIV0` = draw returns (R143, log 16), numbered by the state's draw counter. -/
opaque divZeroDraw : Nat → Word

/-- Whether the timer makes its move "raise" at this instruction boundary: a draw under no law (R251,
log 12), numbered by the state's draw counter. -/
opaque timerRaise : Nat → Bool

/-- Whether a pending interrupt is taken at this instruction boundary: any delay is admitted (R254,
log 12). -/
opaque timerTake : Nat → Bool

/-- `IoDevice` (R224, log 14): from the location, the general registers r0 to r14, the memory and the
history of earlier `ioi` steps to new general registers and a new memory. -/
opaque ioDevice :
  BitVec 20 → Vector Word 15 → List Host.Cell → List IoStep → Vector Word 15 × List Host.Cell

end Config

end Sys2Proof
end

