-- ==== Sys2Proof/Machine/Defaults.lean ====
section
/-! DEFINITION. The values the parameters of 00_scope.md R6 have at reset: the spec's defaults (log 2),
and for the parameters without a default a value the log names (log 3, 5, 13). -/

namespace Sys2Proof

/-- The default `LAYOUT` (R82), under which `spec/opcode_table.json` is written. -/
def defaultLayout : Layout :=
  { opcode := 24, rd := 20, rm := 16, rn := 12, imm12 := 0, imm16 := 0, imm20 := 0 }

/-- The default `CPSR_POS` (R29). -/
def defaultCpsrPos : CpsrPos :=
  { n := 31, z := 30, c := 29, v := 28, u := 27, k := 26, i := 25, os := 0 }

/-- The default `MemMap` (R52): every address from 0 to 2^32 - 1. -/
def defaultMemMap : List Region := [{ base := 0, size := 2 ^ 32 }]

/-- `ENTRY` at reset: the spec gives no reset vector (R41); DESIGN CHOICE, log 5. -/
def resetEntry : Word := 0

/-- The parameters at reset: the defaults of R6. `OS_BASE` and `TMR_VECTOR` have none: DESIGN CHOICE,
log 3. No `END_PC` is given: log 13. -/
def defaultParams : Params :=
  { layout := defaultLayout
    byteOrder := .little
    pcReadOffset := 0
    arithImm16Ext := .sign
    indexShift := .standard
    ldbExt := .zero
    cmpWritesCV := false
    sbcBorrow := .arm
    divS := .standard
    div0 := .fault
    banking := .banked
    osBase := 0
    kerImmExt := .zero
    privCheck := true
    ioDevice := .absent
    krStorage := .refused
    timerPresent := false
    tmrVector := 0
    launchMode := .user
    endPc := none
    memMap := defaultMemMap
    cpsrPos := defaultCpsrPos }

end Sys2Proof
end

