-- ==== Sys2Proof/Syntax.lean ====
section
/-! DEFINITION. The instructions of Charm: one constructor of `Instr` for each of the 118 rows of
`spec/opcode_table.json` (30_encoding.md R87 to R91), holding the fields that the row uses (R96), and
the operand forms of the card's tables. -/

namespace Sys2Proof

/-- The address forms 0 to 8 of a load or store (R114 to R122). -/
inductive AddrForm
  /-- Form 0, `addr20` (R114). -/
  | abs (addr : BitVec 20)
  /-- Form 1, `[rm]` (R115). -/
  | reg (rm : RegNum)
  /-- Form 2, `[rm, imm16]` (R116). -/
  | off (rm : RegNum) (imm : BitVec 16)
  /-- Form 3, `[rm, rn]` (R117). -/
  | idx (rm rn : RegNum)
  /-- Form 4, `[rm, imm16]!` (R118). -/
  | preOff (rm : RegNum) (imm : BitVec 16)
  /-- Form 5, `[rm, rn]!` (R119). -/
  | preIdx (rm rn : RegNum)
  /-- Form 6, `[rm], imm16` (R120). -/
  | postOff (rm : RegNum) (imm : BitVec 16)
  /-- Form 7, `[rm], rn` (R121). -/
  | postIdx (rm rn : RegNum)
  /-- Form 8, `[rm, rn, imm12]` (R122). -/
  | scaled (rm rn : RegNum) (imm : BitVec 12)
  deriving DecidableEq, Repr

/-- The op2 of an arithmetic or logic instruction (R154, R155). -/
inductive ArithOperand
  | reg (rn : RegNum)
  | imm (imm : BitVec 16)
  deriving DecidableEq, Repr

/-- The op2 of a move, compare or shift instruction (R182, R183). -/
inductive MoveOperand
  | reg (rm : RegNum)
  | imm (imm : BitVec 20)
  deriving DecidableEq, Repr

/-- The target forms of a branch (R208 to R210). -/
inductive Dest
  /-- Form 0x9n, `addr20` (R208). -/
  | abs (addr : BitVec 20)
  /-- Form 0xan, `[rd]` (R209). -/
  | ind (rd : RegNum)
  /-- Form 0xbn, imm20 added to rd, which the assembler makes 15 (R210). -/
  | rel (rd : RegNum) (imm : BitVec 20)
  deriving DecidableEq, Repr

/-- The load/store mnemonics, high opcode digits 1 to 4 (R87). -/
inductive LoadStoreOp
  | ldr | ldb | str | stb
  deriving DecidableEq, Repr

/-- The arithmetic and logic mnemonics, low opcode digits 0 to d (R88). -/
inductive ArithOp
  | add | sub | mul | div | mod | and | orr | eor | adc | sbc | adf | suf | muf | dif
  deriving DecidableEq, Repr

/-- The move, compare and shift mnemonics, low opcode digits 0 to b (R89). -/
inductive MoveOp
  | mov | mva | cmp | tst | teq | shf | sha | rot | one | fti | itf | cmf
  deriving DecidableEq, Repr

/-- The branch mnemonics, low opcode digits 0 to 7 (R90). -/
inductive BranchOp
  | bal | beq | bne | blt | ble | bgt | bge | blr
  deriving DecidableEq, Repr

/-- The kernel mode instructions (R91) with their operands. -/
inductive KernelInstr
  | ker (imm : BitVec 20)
  | srg (value : Bool) (pos : BitVec 5)
  | ioi (location : BitVec 20)
  | rfi (imm : BitVec 20)
  | mkd (krd rm : RegNum)
  | mks (rd krm : RegNum)
  deriving DecidableEq, Repr

/-- An instruction as a cell of one of the card's five grids: the mnemonic and the operand form. -/
inductive Shape
  | loadStore (op : LoadStoreOp) (rd : RegNum) (form : AddrForm)
  | arith (op : ArithOp) (rd rm : RegNum) (op2 : ArithOperand)
  | move (op : MoveOp) (rd : RegNum) (op2 : MoveOperand)
  | branch (op : BranchOp) (dest : Dest)
  | kernel (instr : KernelInstr)
  deriving DecidableEq, Repr

/-- The instructions, one constructor per row of `spec/opcode_table.json`, in the table's order. -/
inductive Instr
  /-- 0x10, F2: `ldr rd, addr20` (R110, R114). -/
  | ldrAbs (rd : RegNum) (addr : BitVec 20)
  /-- 0x11, F3: `ldr rd, [rm]` (R110, R115). -/
  | ldrReg (rd rm : RegNum)
  /-- 0x12, F3: `ldr rd, [rm, imm16]` (R110, R116). -/
  | ldrOff (rd rm : RegNum) (imm : BitVec 16)
  /-- 0x13, F1: `ldr rd, [rm, rn]` (R110, R117). -/
  | ldrIdx (rd rm rn : RegNum)
  /-- 0x14, F3: `ldr rd, [rm, imm16]!` (R110, R118). -/
  | ldrPreOff (rd rm : RegNum) (imm : BitVec 16)
  /-- 0x15, F1: `ldr rd, [rm, rn]!` (R110, R119). -/
  | ldrPreIdx (rd rm rn : RegNum)
  /-- 0x16, F3: `ldr rd, [rm], imm16` (R110, R120). -/
  | ldrPostOff (rd rm : RegNum) (imm : BitVec 16)
  /-- 0x17, F1: `ldr rd, [rm], rn` (R110, R121). -/
  | ldrPostIdx (rd rm rn : RegNum)
  /-- 0x18, F1A: `ldr rd, [rm, rn, imm12]` (R110, R122). -/
  | ldrScaled (rd rm rn : RegNum) (imm : BitVec 12)
  /-- 0x20, F2: `ldb rd, addr20` (R111, R114). -/
  | ldbAbs (rd : RegNum) (addr : BitVec 20)
  /-- 0x21, F3: `ldb rd, [rm]` (R111, R115). -/
  | ldbReg (rd rm : RegNum)
  /-- 0x22, F3: `ldb rd, [rm, imm16]` (R111, R116). -/
  | ldbOff (rd rm : RegNum) (imm : BitVec 16)
  /-- 0x23, F1: `ldb rd, [rm, rn]` (R111, R117). -/
  | ldbIdx (rd rm rn : RegNum)
  /-- 0x24, F3: `ldb rd, [rm, imm16]!` (R111, R118). -/
  | ldbPreOff (rd rm : RegNum) (imm : BitVec 16)
  /-- 0x25, F1: `ldb rd, [rm, rn]!` (R111, R119). -/
  | ldbPreIdx (rd rm rn : RegNum)
  /-- 0x26, F3: `ldb rd, [rm], imm16` (R111, R120). -/
  | ldbPostOff (rd rm : RegNum) (imm : BitVec 16)
  /-- 0x27, F1: `ldb rd, [rm], rn` (R111, R121). -/
  | ldbPostIdx (rd rm rn : RegNum)
  /-- 0x28, F1A: `ldb rd, [rm, rn, imm12]` (R111, R122). -/
  | ldbScaled (rd rm rn : RegNum) (imm : BitVec 12)
  /-- 0x30, F2: `str rd, addr20` (R112, R114). -/
  | strAbs (rd : RegNum) (addr : BitVec 20)
  /-- 0x31, F3: `str rd, [rm]` (R112, R115). -/
  | strReg (rd rm : RegNum)
  /-- 0x32, F3: `str rd, [rm, imm16]` (R112, R116). -/
  | strOff (rd rm : RegNum) (imm : BitVec 16)
  /-- 0x33, F1: `str rd, [rm, rn]` (R112, R117). -/
  | strIdx (rd rm rn : RegNum)
  /-- 0x34, F3: `str rd, [rm, imm16]!` (R112, R118). -/
  | strPreOff (rd rm : RegNum) (imm : BitVec 16)
  /-- 0x35, F1: `str rd, [rm, rn]!` (R112, R119). -/
  | strPreIdx (rd rm rn : RegNum)
  /-- 0x36, F3: `str rd, [rm], imm16` (R112, R120). -/
  | strPostOff (rd rm : RegNum) (imm : BitVec 16)
  /-- 0x37, F1: `str rd, [rm], rn` (R112, R121). -/
  | strPostIdx (rd rm rn : RegNum)
  /-- 0x38, F1A: `str rd, [rm, rn, imm12]` (R112, R122). -/
  | strScaled (rd rm rn : RegNum) (imm : BitVec 12)
  /-- 0x40, F2: `stb rd, addr20` (R113, R114). -/
  | stbAbs (rd : RegNum) (addr : BitVec 20)
  /-- 0x41, F3: `stb rd, [rm]` (R113, R115). -/
  | stbReg (rd rm : RegNum)
  /-- 0x42, F3: `stb rd, [rm, imm16]` (R113, R116). -/
  | stbOff (rd rm : RegNum) (imm : BitVec 16)
  /-- 0x43, F1: `stb rd, [rm, rn]` (R113, R117). -/
  | stbIdx (rd rm rn : RegNum)
  /-- 0x44, F3: `stb rd, [rm, imm16]!` (R113, R118). -/
  | stbPreOff (rd rm : RegNum) (imm : BitVec 16)
  /-- 0x45, F1: `stb rd, [rm, rn]!` (R113, R119). -/
  | stbPreIdx (rd rm rn : RegNum)
  /-- 0x46, F3: `stb rd, [rm], imm16` (R113, R120). -/
  | stbPostOff (rd rm : RegNum) (imm : BitVec 16)
  /-- 0x47, F1: `stb rd, [rm], rn` (R113, R121). -/
  | stbPostIdx (rd rm rn : RegNum)
  /-- 0x48, F1A: `stb rd, [rm, rn, imm12]` (R113, R122). -/
  | stbScaled (rd rm rn : RegNum) (imm : BitVec 12)
  /-- 0x50, F1: `add rd, rm, rn` (R140, R154). -/
  | addReg (rd rm rn : RegNum)
  /-- 0x51, F1: `sub rd, rm, rn` (R141, R154). -/
  | subReg (rd rm rn : RegNum)
  /-- 0x52, F1: `mul rd, rm, rn` (R142, R154). -/
  | mulReg (rd rm rn : RegNum)
  /-- 0x53, F1: `div rd, rm, rn` (R143, R154). -/
  | divReg (rd rm rn : RegNum)
  /-- 0x54, F1: `mod rd, rm, rn` (R144, R154). -/
  | modReg (rd rm rn : RegNum)
  /-- 0x55, F1: `and rd, rm, rn` (R145, R154). -/
  | andReg (rd rm rn : RegNum)
  /-- 0x56, F1: `orr rd, rm, rn` (R146, R154). -/
  | orrReg (rd rm rn : RegNum)
  /-- 0x57, F1: `eor rd, rm, rn` (R147, R154). -/
  | eorReg (rd rm rn : RegNum)
  /-- 0x58, F1: `adc rd, rm, rn` (R148, R154). -/
  | adcReg (rd rm rn : RegNum)
  /-- 0x59, F1: `sbc rd, rm, rn` (R149, R154). -/
  | sbcReg (rd rm rn : RegNum)
  /-- 0x5a, F1: `adf rd, rm, rn` (R150, R154). -/
  | adfReg (rd rm rn : RegNum)
  /-- 0x5b, F1: `suf rd, rm, rn` (R151, R154). -/
  | sufReg (rd rm rn : RegNum)
  /-- 0x5c, F1: `muf rd, rm, rn` (R152, R154). -/
  | mufReg (rd rm rn : RegNum)
  /-- 0x5d, F1: `dif rd, rm, rn` (R153, R154). -/
  | difReg (rd rm rn : RegNum)
  /-- 0x60, F3: `add rd, rm, imm16` (R140, R155). -/
  | addImm (rd rm : RegNum) (imm : BitVec 16)
  /-- 0x61, F3: `sub rd, rm, imm16` (R141, R155). -/
  | subImm (rd rm : RegNum) (imm : BitVec 16)
  /-- 0x62, F3: `mul rd, rm, imm16` (R142, R155). -/
  | mulImm (rd rm : RegNum) (imm : BitVec 16)
  /-- 0x63, F3: `div rd, rm, imm16` (R143, R155). -/
  | divImm (rd rm : RegNum) (imm : BitVec 16)
  /-- 0x64, F3: `mod rd, rm, imm16` (R144, R155). -/
  | modImm (rd rm : RegNum) (imm : BitVec 16)
  /-- 0x65, F3: `and rd, rm, imm16` (R145, R155). -/
  | andImm (rd rm : RegNum) (imm : BitVec 16)
  /-- 0x66, F3: `orr rd, rm, imm16` (R146, R155). -/
  | orrImm (rd rm : RegNum) (imm : BitVec 16)
  /-- 0x67, F3: `eor rd, rm, imm16` (R147, R155). -/
  | eorImm (rd rm : RegNum) (imm : BitVec 16)
  /-- 0x68, F3: `adc rd, rm, imm16` (R148, R155). -/
  | adcImm (rd rm : RegNum) (imm : BitVec 16)
  /-- 0x69, F3: `sbc rd, rm, imm16` (R149, R155). -/
  | sbcImm (rd rm : RegNum) (imm : BitVec 16)
  /-- 0x6a, F3: `adf rd, rm, imm16` (R150, R155). -/
  | adfImm (rd rm : RegNum) (imm : BitVec 16)
  /-- 0x6b, F3: `suf rd, rm, imm16` (R151, R155). -/
  | sufImm (rd rm : RegNum) (imm : BitVec 16)
  /-- 0x6c, F3: `muf rd, rm, imm16` (R152, R155). -/
  | mufImm (rd rm : RegNum) (imm : BitVec 16)
  /-- 0x6d, F3: `dif rd, rm, imm16` (R153, R155). -/
  | difImm (rd rm : RegNum) (imm : BitVec 16)
  /-- 0x70, F1: `mov rd, rm` (R170, R182). -/
  | movReg (rd rm : RegNum)
  /-- 0x71, F1: `mva rd, rm` (R171, R182). -/
  | mvaReg (rd rm : RegNum)
  /-- 0x72, F1: `cmp rd, rm` (R172, R182). -/
  | cmpReg (rd rm : RegNum)
  /-- 0x73, F1: `tst rd, rm` (R173, R182). -/
  | tstReg (rd rm : RegNum)
  /-- 0x74, F1: `teq rd, rm` (R174, R182). -/
  | teqReg (rd rm : RegNum)
  /-- 0x75, F1: `shf rd, rm` (R175, R182). -/
  | shfReg (rd rm : RegNum)
  /-- 0x76, F1: `sha rd, rm` (R176, R182). -/
  | shaReg (rd rm : RegNum)
  /-- 0x77, F1: `rot rd, rm` (R177, R182). -/
  | rotReg (rd rm : RegNum)
  /-- 0x78, F1: `one rd, rm` (R178, R182). -/
  | oneReg (rd rm : RegNum)
  /-- 0x79, F1: `fti rd, rm` (R179, R182). -/
  | ftiReg (rd rm : RegNum)
  /-- 0x7a, F1: `itf rd, rm` (R180, R182). -/
  | itfReg (rd rm : RegNum)
  /-- 0x7b, F1: `cmf rd, rm` (R181, R182). -/
  | cmfReg (rd rm : RegNum)
  /-- 0x80, F2: `mov rd, imm20` (R170, R183). -/
  | movImm (rd : RegNum) (imm : BitVec 20)
  /-- 0x81, F2: `mva rd, imm20` (R171, R183). -/
  | mvaImm (rd : RegNum) (imm : BitVec 20)
  /-- 0x82, F2: `cmp rd, imm20` (R172, R183). -/
  | cmpImm (rd : RegNum) (imm : BitVec 20)
  /-- 0x83, F2: `tst rd, imm20` (R173, R183). -/
  | tstImm (rd : RegNum) (imm : BitVec 20)
  /-- 0x84, F2: `teq rd, imm20` (R174, R183). -/
  | teqImm (rd : RegNum) (imm : BitVec 20)
  /-- 0x85, F2: `shf rd, imm20` (R175, R183). -/
  | shfImm (rd : RegNum) (imm : BitVec 20)
  /-- 0x86, F2: `sha rd, imm20` (R176, R183). -/
  | shaImm (rd : RegNum) (imm : BitVec 20)
  /-- 0x87, F2: `rot rd, imm20` (R177, R183). -/
  | rotImm (rd : RegNum) (imm : BitVec 20)
  /-- 0x88, F2: `one rd, imm20` (R178, R183). -/
  | oneImm (rd : RegNum) (imm : BitVec 20)
  /-- 0x89, F2: `fti rd, imm20` (R179, R183). -/
  | ftiImm (rd : RegNum) (imm : BitVec 20)
  /-- 0x8a, F2: `itf rd, imm20` (R180, R183). -/
  | itfImm (rd : RegNum) (imm : BitVec 20)
  /-- 0x8b, F2: `cmf rd, imm20` (R181, R183). -/
  | cmfImm (rd : RegNum) (imm : BitVec 20)
  /-- 0x90, F2: `bal addr20` (R200, R208). -/
  | balAbs (addr : BitVec 20)
  /-- 0x91, F2: `beq addr20` (R201, R208). -/
  | beqAbs (addr : BitVec 20)
  /-- 0x92, F2: `bne addr20` (R202, R208). -/
  | bneAbs (addr : BitVec 20)
  /-- 0x93, F2: `blt addr20` (R203, R208). -/
  | bltAbs (addr : BitVec 20)
  /-- 0x94, F2: `ble addr20` (R204, R208). -/
  | bleAbs (addr : BitVec 20)
  /-- 0x95, F2: `bgt addr20` (R205, R208). -/
  | bgtAbs (addr : BitVec 20)
  /-- 0x96, F2: `bge addr20` (R206, R208). -/
  | bgeAbs (addr : BitVec 20)
  /-- 0x97, F2: `blr addr20` (R207, R208). -/
  | blrAbs (addr : BitVec 20)
  /-- 0xa0, F2: `bal [rd]` (R200, R209). -/
  | balInd (rd : RegNum)
  /-- 0xa1, F2: `beq [rd]` (R201, R209). -/
  | beqInd (rd : RegNum)
  /-- 0xa2, F2: `bne [rd]` (R202, R209). -/
  | bneInd (rd : RegNum)
  /-- 0xa3, F2: `blt [rd]` (R203, R209). -/
  | bltInd (rd : RegNum)
  /-- 0xa4, F2: `ble [rd]` (R204, R209). -/
  | bleInd (rd : RegNum)
  /-- 0xa5, F2: `bgt [rd]` (R205, R209). -/
  | bgtInd (rd : RegNum)
  /-- 0xa6, F2: `bge [rd]` (R206, R209). -/
  | bgeInd (rd : RegNum)
  /-- 0xa7, F2: `blr [rd]` (R207, R209). -/
  | blrInd (rd : RegNum)
  /-- 0xb0, F2: `bal !label (rd = 15, imm20 = offset)` (R200, R210). -/
  | balRel (rd : RegNum) (imm : BitVec 20)
  /-- 0xb1, F2: `beq !label (rd = 15, imm20 = offset)` (R201, R210). -/
  | beqRel (rd : RegNum) (imm : BitVec 20)
  /-- 0xb2, F2: `bne !label (rd = 15, imm20 = offset)` (R202, R210). -/
  | bneRel (rd : RegNum) (imm : BitVec 20)
  /-- 0xb3, F2: `blt !label (rd = 15, imm20 = offset)` (R203, R210). -/
  | bltRel (rd : RegNum) (imm : BitVec 20)
  /-- 0xb4, F2: `ble !label (rd = 15, imm20 = offset)` (R204, R210). -/
  | bleRel (rd : RegNum) (imm : BitVec 20)
  /-- 0xb5, F2: `bgt !label (rd = 15, imm20 = offset)` (R205, R210). -/
  | bgtRel (rd : RegNum) (imm : BitVec 20)
  /-- 0xb6, F2: `bge !label (rd = 15, imm20 = offset)` (R206, R210). -/
  | bgeRel (rd : RegNum) (imm : BitVec 20)
  /-- 0xb7, F2: `blr !label (rd = 15, imm20 = offset)` (R207, R210). -/
  | blrRel (rd : RegNum) (imm : BitVec 20)
  /-- 0xc0, F2: `ker imm20` (R220). -/
  | ker (imm : BitVec 20)
  /-- 0xc1, F2: `srg imm20` (R222). -/
  | srg (value : Bool) (pos : BitVec 5)
  /-- 0xc2, F2: `ioi imm20` (R224). -/
  | ioi (location : BitVec 20)
  /-- 0xc3, F2: `rfi imm20` (R225). -/
  | rfi (imm : BitVec 20)
  /-- 0xc4, F1: `mkd krd, rm` (R226). -/
  | mkd (krd rm : RegNum)
  /-- 0xc5, F1: `mks rd, krm` (R227). -/
  | mks (rd krm : RegNum)
  deriving DecidableEq, Repr

end Sys2Proof
end

