-- ==== Sys2Proof/Machine/Shape.lean ====
section
/-! DEFINITION. The map between the 118 instructions and their cells in the card's grids, both ways
(30_encoding.md R87 to R91): `Instr.shape` splits an instruction into mnemonic and operand form, and
`Shape.instr` is its inverse. -/

namespace Sys2Proof

/-- The cell of the card's grids that an instruction stands in. -/
def Instr.shape : Instr → Shape
  | .ldrAbs rd addr => .loadStore .ldr rd (.abs addr)
  | .ldrReg rd rm => .loadStore .ldr rd (.reg rm)
  | .ldrOff rd rm imm => .loadStore .ldr rd (.off rm imm)
  | .ldrIdx rd rm rn => .loadStore .ldr rd (.idx rm rn)
  | .ldrPreOff rd rm imm => .loadStore .ldr rd (.preOff rm imm)
  | .ldrPreIdx rd rm rn => .loadStore .ldr rd (.preIdx rm rn)
  | .ldrPostOff rd rm imm => .loadStore .ldr rd (.postOff rm imm)
  | .ldrPostIdx rd rm rn => .loadStore .ldr rd (.postIdx rm rn)
  | .ldrScaled rd rm rn imm => .loadStore .ldr rd (.scaled rm rn imm)
  | .ldbAbs rd addr => .loadStore .ldb rd (.abs addr)
  | .ldbReg rd rm => .loadStore .ldb rd (.reg rm)
  | .ldbOff rd rm imm => .loadStore .ldb rd (.off rm imm)
  | .ldbIdx rd rm rn => .loadStore .ldb rd (.idx rm rn)
  | .ldbPreOff rd rm imm => .loadStore .ldb rd (.preOff rm imm)
  | .ldbPreIdx rd rm rn => .loadStore .ldb rd (.preIdx rm rn)
  | .ldbPostOff rd rm imm => .loadStore .ldb rd (.postOff rm imm)
  | .ldbPostIdx rd rm rn => .loadStore .ldb rd (.postIdx rm rn)
  | .ldbScaled rd rm rn imm => .loadStore .ldb rd (.scaled rm rn imm)
  | .strAbs rd addr => .loadStore .str rd (.abs addr)
  | .strReg rd rm => .loadStore .str rd (.reg rm)
  | .strOff rd rm imm => .loadStore .str rd (.off rm imm)
  | .strIdx rd rm rn => .loadStore .str rd (.idx rm rn)
  | .strPreOff rd rm imm => .loadStore .str rd (.preOff rm imm)
  | .strPreIdx rd rm rn => .loadStore .str rd (.preIdx rm rn)
  | .strPostOff rd rm imm => .loadStore .str rd (.postOff rm imm)
  | .strPostIdx rd rm rn => .loadStore .str rd (.postIdx rm rn)
  | .strScaled rd rm rn imm => .loadStore .str rd (.scaled rm rn imm)
  | .stbAbs rd addr => .loadStore .stb rd (.abs addr)
  | .stbReg rd rm => .loadStore .stb rd (.reg rm)
  | .stbOff rd rm imm => .loadStore .stb rd (.off rm imm)
  | .stbIdx rd rm rn => .loadStore .stb rd (.idx rm rn)
  | .stbPreOff rd rm imm => .loadStore .stb rd (.preOff rm imm)
  | .stbPreIdx rd rm rn => .loadStore .stb rd (.preIdx rm rn)
  | .stbPostOff rd rm imm => .loadStore .stb rd (.postOff rm imm)
  | .stbPostIdx rd rm rn => .loadStore .stb rd (.postIdx rm rn)
  | .stbScaled rd rm rn imm => .loadStore .stb rd (.scaled rm rn imm)
  | .addReg rd rm rn => .arith .add rd rm (.reg rn)
  | .subReg rd rm rn => .arith .sub rd rm (.reg rn)
  | .mulReg rd rm rn => .arith .mul rd rm (.reg rn)
  | .divReg rd rm rn => .arith .div rd rm (.reg rn)
  | .modReg rd rm rn => .arith .mod rd rm (.reg rn)
  | .andReg rd rm rn => .arith .and rd rm (.reg rn)
  | .orrReg rd rm rn => .arith .orr rd rm (.reg rn)
  | .eorReg rd rm rn => .arith .eor rd rm (.reg rn)
  | .adcReg rd rm rn => .arith .adc rd rm (.reg rn)
  | .sbcReg rd rm rn => .arith .sbc rd rm (.reg rn)
  | .adfReg rd rm rn => .arith .adf rd rm (.reg rn)
  | .sufReg rd rm rn => .arith .suf rd rm (.reg rn)
  | .mufReg rd rm rn => .arith .muf rd rm (.reg rn)
  | .difReg rd rm rn => .arith .dif rd rm (.reg rn)
  | .addImm rd rm imm => .arith .add rd rm (.imm imm)
  | .subImm rd rm imm => .arith .sub rd rm (.imm imm)
  | .mulImm rd rm imm => .arith .mul rd rm (.imm imm)
  | .divImm rd rm imm => .arith .div rd rm (.imm imm)
  | .modImm rd rm imm => .arith .mod rd rm (.imm imm)
  | .andImm rd rm imm => .arith .and rd rm (.imm imm)
  | .orrImm rd rm imm => .arith .orr rd rm (.imm imm)
  | .eorImm rd rm imm => .arith .eor rd rm (.imm imm)
  | .adcImm rd rm imm => .arith .adc rd rm (.imm imm)
  | .sbcImm rd rm imm => .arith .sbc rd rm (.imm imm)
  | .adfImm rd rm imm => .arith .adf rd rm (.imm imm)
  | .sufImm rd rm imm => .arith .suf rd rm (.imm imm)
  | .mufImm rd rm imm => .arith .muf rd rm (.imm imm)
  | .difImm rd rm imm => .arith .dif rd rm (.imm imm)
  | .movReg rd rm => .move .mov rd (.reg rm)
  | .mvaReg rd rm => .move .mva rd (.reg rm)
  | .cmpReg rd rm => .move .cmp rd (.reg rm)
  | .tstReg rd rm => .move .tst rd (.reg rm)
  | .teqReg rd rm => .move .teq rd (.reg rm)
  | .shfReg rd rm => .move .shf rd (.reg rm)
  | .shaReg rd rm => .move .sha rd (.reg rm)
  | .rotReg rd rm => .move .rot rd (.reg rm)
  | .oneReg rd rm => .move .one rd (.reg rm)
  | .ftiReg rd rm => .move .fti rd (.reg rm)
  | .itfReg rd rm => .move .itf rd (.reg rm)
  | .cmfReg rd rm => .move .cmf rd (.reg rm)
  | .movImm rd imm => .move .mov rd (.imm imm)
  | .mvaImm rd imm => .move .mva rd (.imm imm)
  | .cmpImm rd imm => .move .cmp rd (.imm imm)
  | .tstImm rd imm => .move .tst rd (.imm imm)
  | .teqImm rd imm => .move .teq rd (.imm imm)
  | .shfImm rd imm => .move .shf rd (.imm imm)
  | .shaImm rd imm => .move .sha rd (.imm imm)
  | .rotImm rd imm => .move .rot rd (.imm imm)
  | .oneImm rd imm => .move .one rd (.imm imm)
  | .ftiImm rd imm => .move .fti rd (.imm imm)
  | .itfImm rd imm => .move .itf rd (.imm imm)
  | .cmfImm rd imm => .move .cmf rd (.imm imm)
  | .balAbs addr => .branch .bal (.abs addr)
  | .beqAbs addr => .branch .beq (.abs addr)
  | .bneAbs addr => .branch .bne (.abs addr)
  | .bltAbs addr => .branch .blt (.abs addr)
  | .bleAbs addr => .branch .ble (.abs addr)
  | .bgtAbs addr => .branch .bgt (.abs addr)
  | .bgeAbs addr => .branch .bge (.abs addr)
  | .blrAbs addr => .branch .blr (.abs addr)
  | .balInd rd => .branch .bal (.ind rd)
  | .beqInd rd => .branch .beq (.ind rd)
  | .bneInd rd => .branch .bne (.ind rd)
  | .bltInd rd => .branch .blt (.ind rd)
  | .bleInd rd => .branch .ble (.ind rd)
  | .bgtInd rd => .branch .bgt (.ind rd)
  | .bgeInd rd => .branch .bge (.ind rd)
  | .blrInd rd => .branch .blr (.ind rd)
  | .balRel rd imm => .branch .bal (.rel rd imm)
  | .beqRel rd imm => .branch .beq (.rel rd imm)
  | .bneRel rd imm => .branch .bne (.rel rd imm)
  | .bltRel rd imm => .branch .blt (.rel rd imm)
  | .bleRel rd imm => .branch .ble (.rel rd imm)
  | .bgtRel rd imm => .branch .bgt (.rel rd imm)
  | .bgeRel rd imm => .branch .bge (.rel rd imm)
  | .blrRel rd imm => .branch .blr (.rel rd imm)
  | .ker imm => .kernel (.ker imm)
  | .srg value pos => .kernel (.srg value pos)
  | .ioi location => .kernel (.ioi location)
  | .rfi imm => .kernel (.rfi imm)
  | .mkd krd rm => .kernel (.mkd krd rm)
  | .mks rd krm => .kernel (.mks rd krm)

/-- `ldr` in each of its nine address forms (R126). -/
def ldrOf (rd : RegNum) : AddrForm → Instr
  | .abs addr => .ldrAbs rd addr
  | .reg rm => .ldrReg rd rm
  | .off rm imm => .ldrOff rd rm imm
  | .idx rm rn => .ldrIdx rd rm rn
  | .preOff rm imm => .ldrPreOff rd rm imm
  | .preIdx rm rn => .ldrPreIdx rd rm rn
  | .postOff rm imm => .ldrPostOff rd rm imm
  | .postIdx rm rn => .ldrPostIdx rd rm rn
  | .scaled rm rn imm => .ldrScaled rd rm rn imm

/-- `ldb` in each of its nine address forms (R126). -/
def ldbOf (rd : RegNum) : AddrForm → Instr
  | .abs addr => .ldbAbs rd addr
  | .reg rm => .ldbReg rd rm
  | .off rm imm => .ldbOff rd rm imm
  | .idx rm rn => .ldbIdx rd rm rn
  | .preOff rm imm => .ldbPreOff rd rm imm
  | .preIdx rm rn => .ldbPreIdx rd rm rn
  | .postOff rm imm => .ldbPostOff rd rm imm
  | .postIdx rm rn => .ldbPostIdx rd rm rn
  | .scaled rm rn imm => .ldbScaled rd rm rn imm

/-- `str` in each of its nine address forms (R126). -/
def strOf (rd : RegNum) : AddrForm → Instr
  | .abs addr => .strAbs rd addr
  | .reg rm => .strReg rd rm
  | .off rm imm => .strOff rd rm imm
  | .idx rm rn => .strIdx rd rm rn
  | .preOff rm imm => .strPreOff rd rm imm
  | .preIdx rm rn => .strPreIdx rd rm rn
  | .postOff rm imm => .strPostOff rd rm imm
  | .postIdx rm rn => .strPostIdx rd rm rn
  | .scaled rm rn imm => .strScaled rd rm rn imm

/-- `stb` in each of its nine address forms (R126). -/
def stbOf (rd : RegNum) : AddrForm → Instr
  | .abs addr => .stbAbs rd addr
  | .reg rm => .stbReg rd rm
  | .off rm imm => .stbOff rd rm imm
  | .idx rm rn => .stbIdx rd rm rn
  | .preOff rm imm => .stbPreOff rd rm imm
  | .preIdx rm rn => .stbPreIdx rd rm rn
  | .postOff rm imm => .stbPostOff rd rm imm
  | .postIdx rm rn => .stbPostIdx rd rm rn
  | .scaled rm rn imm => .stbScaled rd rm rn imm

/-- The arithmetic instructions with a register op2 (R154). -/
def arithRegOf (rd rm rn : RegNum) : ArithOp → Instr
  | .add => .addReg rd rm rn
  | .sub => .subReg rd rm rn
  | .mul => .mulReg rd rm rn
  | .div => .divReg rd rm rn
  | .mod => .modReg rd rm rn
  | .and => .andReg rd rm rn
  | .orr => .orrReg rd rm rn
  | .eor => .eorReg rd rm rn
  | .adc => .adcReg rd rm rn
  | .sbc => .sbcReg rd rm rn
  | .adf => .adfReg rd rm rn
  | .suf => .sufReg rd rm rn
  | .muf => .mufReg rd rm rn
  | .dif => .difReg rd rm rn

/-- The arithmetic instructions with an immediate op2 (R155). -/
def arithImmOf (rd rm : RegNum) (imm : BitVec 16) : ArithOp → Instr
  | .add => .addImm rd rm imm
  | .sub => .subImm rd rm imm
  | .mul => .mulImm rd rm imm
  | .div => .divImm rd rm imm
  | .mod => .modImm rd rm imm
  | .and => .andImm rd rm imm
  | .orr => .orrImm rd rm imm
  | .eor => .eorImm rd rm imm
  | .adc => .adcImm rd rm imm
  | .sbc => .sbcImm rd rm imm
  | .adf => .adfImm rd rm imm
  | .suf => .sufImm rd rm imm
  | .muf => .mufImm rd rm imm
  | .dif => .difImm rd rm imm

/-- The move, compare and shift instructions with a register op2 (R182). -/
def moveRegOf (rd rm : RegNum) : MoveOp → Instr
  | .mov => .movReg rd rm
  | .mva => .mvaReg rd rm
  | .cmp => .cmpReg rd rm
  | .tst => .tstReg rd rm
  | .teq => .teqReg rd rm
  | .shf => .shfReg rd rm
  | .sha => .shaReg rd rm
  | .rot => .rotReg rd rm
  | .one => .oneReg rd rm
  | .fti => .ftiReg rd rm
  | .itf => .itfReg rd rm
  | .cmf => .cmfReg rd rm

/-- The move, compare and shift instructions with an immediate op2 (R183). -/
def moveImmOf (rd : RegNum) (imm : BitVec 20) : MoveOp → Instr
  | .mov => .movImm rd imm
  | .mva => .mvaImm rd imm
  | .cmp => .cmpImm rd imm
  | .tst => .tstImm rd imm
  | .teq => .teqImm rd imm
  | .shf => .shfImm rd imm
  | .sha => .shaImm rd imm
  | .rot => .rotImm rd imm
  | .one => .oneImm rd imm
  | .fti => .ftiImm rd imm
  | .itf => .itfImm rd imm
  | .cmf => .cmfImm rd imm

/-- The branches to an absolute address (R208). -/
def branchAbsOf (addr : BitVec 20) : BranchOp → Instr
  | .bal => .balAbs addr
  | .beq => .beqAbs addr
  | .bne => .bneAbs addr
  | .blt => .bltAbs addr
  | .ble => .bleAbs addr
  | .bgt => .bgtAbs addr
  | .bge => .bgeAbs addr
  | .blr => .blrAbs addr

/-- The branches to the address in a register (R209). -/
def branchIndOf (rd : RegNum) : BranchOp → Instr
  | .bal => .balInd rd
  | .beq => .beqInd rd
  | .bne => .bneInd rd
  | .blt => .bltInd rd
  | .ble => .bleInd rd
  | .bgt => .bgtInd rd
  | .bge => .bgeInd rd
  | .blr => .blrInd rd

/-- The pc-relative branches (R210). -/
def branchRelOf (rd : RegNum) (imm : BitVec 20) : BranchOp → Instr
  | .bal => .balRel rd imm
  | .beq => .beqRel rd imm
  | .bne => .bneRel rd imm
  | .blt => .bltRel rd imm
  | .ble => .bleRel rd imm
  | .bgt => .bgtRel rd imm
  | .bge => .bgeRel rd imm
  | .blr => .blrRel rd imm

/-- The kernel mode instructions (R91). -/
def kernelOf : KernelInstr → Instr
  | .ker imm => .ker imm
  | .srg value pos => .srg value pos
  | .ioi location => .ioi location
  | .rfi imm => .rfi imm
  | .mkd krd rm => .mkd krd rm
  | .mks rd krm => .mks rd krm

/-- A load or store of either width in any address form (R87). -/
def loadStoreOf (op : LoadStoreOp) (rd : RegNum) (form : AddrForm) : Instr :=
  match op with
  | .ldr => ldrOf rd form
  | .ldb => ldbOf rd form
  | .str => strOf rd form
  | .stb => stbOf rd form

/-- An arithmetic or logic instruction with either op2 (R88). -/
def arithOf (op : ArithOp) (rd rm : RegNum) (op2 : ArithOperand) : Instr :=
  match op2 with
  | .reg rn => arithRegOf rd rm rn op
  | .imm imm => arithImmOf rd rm imm op

/-- A move, compare or shift instruction with either op2 (R89). -/
def moveOf (op : MoveOp) (rd : RegNum) (op2 : MoveOperand) : Instr :=
  match op2 with
  | .reg rm => moveRegOf rd rm op
  | .imm imm => moveImmOf rd imm op

/-- A branch with any target form (R90). -/
def branchOf (op : BranchOp) (dest : Dest) : Instr :=
  match dest with
  | .abs addr => branchAbsOf addr op
  | .ind rd => branchIndOf rd op
  | .rel rd imm => branchRelOf rd imm op

/-- The instruction that stands in a cell of the card's grids; `Instr.shape` undoes it. -/
def Shape.instr : Shape → Instr
  | .loadStore op rd form => loadStoreOf op rd form
  | .arith op rd rm op2 => arithOf op rd rm op2
  | .move op rd op2 => moveOf op rd op2
  | .branch op dest => branchOf op dest
  | .kernel k => kernelOf k

end Sys2Proof
end

