-- ==== Sys2Proof/WellFormed.lean ====
section
/-! DEFINITION. Well-formedness of an instruction: its fields alone give it a meaning. What the spec
refuses for the fields' sake, whatever the state, is ill-formed: a write to register 15 (10_state.md
R26), a load or store with writeback whose rd is its base (40_load_store.md R125), a floating-point
immediate (41_arith_logic.md R150 to R153, 42_move_compare_shift.md R179, R181) and an `rfi` operand
other than 0 and 1 (44_kernel.md R225). An ill-formed instruction still has an encoding, decodes and is
refused by its meaning. A kernel register number from 7 to 15 is no ill-formedness: whether it is refused
is a parameter (10_state.md R38). -/

namespace Sys2Proof

/-- The base register that an address form updates, if it has writeback (forms 4 to 7, R118 to R121). -/
def AddrForm.writebackBase : AddrForm → Option RegNum
  | .preOff rm _ => some rm
  | .preIdx rm _ => some rm
  | .postOff rm _ => some rm
  | .postIdx rm _ => some rm
  | .abs _ => none
  | .reg _ => none
  | .off _ _ => none
  | .idx _ _ => none
  | .scaled _ _ _ => none

/-- Whether a load/store mnemonic loads, and so writes rd (R110 to R113). -/
def LoadStoreOp.isLoad : LoadStoreOp → Bool
  | .ldr => true
  | .ldb => true
  | .str => false
  | .stb => false

/-- Whether a move, compare or shift mnemonic writes rd: all but the four comparisons (R172 to R174,
R181). -/
def MoveOp.writesRd : MoveOp → Bool
  | .cmp => false
  | .tst => false
  | .teq => false
  | .cmf => false
  | .mov => true
  | .mva => true
  | .shf => true
  | .sha => true
  | .rot => true
  | .one => true
  | .fti => true
  | .itf => true

/-- Whether an arithmetic mnemonic takes floating-point operands (R150 to R153). -/
def ArithOp.takesFloat : ArithOp → Bool
  | .adf => true
  | .suf => true
  | .muf => true
  | .dif => true
  | .add => false
  | .sub => false
  | .mul => false
  | .div => false
  | .mod => false
  | .and => false
  | .orr => false
  | .eor => false
  | .adc => false
  | .sbc => false

/-- Whether the op2 of a move, compare or shift mnemonic is a floating-point value (R179, R181). -/
def MoveOp.takesFloat : MoveOp → Bool
  | .fti => true
  | .cmf => true
  | .mov => false
  | .mva => false
  | .cmp => false
  | .tst => false
  | .teq => false
  | .shf => false
  | .sha => false
  | .rot => false
  | .one => false
  | .itf => false

/-- The general register in an instruction's destination field, if the instruction writes it (R26).
`blr` and `ker` name theirs in no field. -/
def Shape.destReg : Shape → Option RegNum
  | .loadStore op rd _ => if op.isLoad then some rd else none
  | .arith _ rd _ _ => some rd
  | .move op rd _ => if op.writesRd then some rd else none
  | .branch _ _ => none
  | .kernel (.mks rd _) => some rd
  | .kernel (.mkd _ _) => none
  | .kernel (.ker _) => none
  | .kernel (.srg _ _) => none
  | .kernel (.ioi _) => none
  | .kernel (.rfi _) => none

/-- The base register that the instruction updates, if any. -/
def Shape.baseReg : Shape → Option RegNum
  | .loadStore _ _ form => form.writebackBase
  | .arith _ _ _ _ => none
  | .move _ _ _ => none
  | .branch _ _ => none
  | .kernel _ => none

/-- The instruction writes register 15 (R26, R125 c and d). -/
def Shape.writesPc (sh : Shape) : Bool :=
  sh.destReg == some 15#4 || sh.baseReg == some 15#4

/-- The instruction is a load or store with writeback whose rd is its base (R125 a and b). -/
def Shape.baseIsRd : Shape → Bool
  | .loadStore _ rd form => form.writebackBase == some rd
  | .arith _ _ _ _ => false
  | .move _ _ _ => false
  | .branch _ _ => false
  | .kernel _ => false

/-- The instruction takes a floating-point value from an immediate (R150 to R153, R179, R181). -/
def Shape.floatImmediate : Shape → Bool
  | .arith op _ _ (.imm _) => op.takesFloat
  | .arith _ _ _ (.reg _) => false
  | .move op _ (.imm _) => op.takesFloat
  | .move _ _ (.reg _) => false
  | .loadStore _ _ _ => false
  | .branch _ _ => false
  | .kernel _ => false

/-- The instruction is an `rfi` whose operand is neither 0 nor 1 (R225). -/
def Shape.badRfi : Shape → Bool
  | .kernel (.rfi imm) => imm != 0#20 && imm != 1#20
  | .kernel (.ker _) => false
  | .kernel (.srg _ _) => false
  | .kernel (.ioi _) => false
  | .kernel (.mkd _ _) => false
  | .kernel (.mks _ _) => false
  | .loadStore _ _ _ => false
  | .arith _ _ _ _ => false
  | .move _ _ _ => false
  | .branch _ _ => false

/-- The fields of the instruction alone do not make the spec refuse it. -/
def Instr.wellFormed (i : Instr) : Bool :=
  !i.shape.writesPc && !i.shape.baseIsRd && !i.shape.floatImmediate && !i.shape.badRfi

end Sys2Proof
end

