-- ==== Sys2Proof/Decode.lean ====
section
/-! DEFINITION. Decoding and encoding (30_encoding.md). The opcode byte alone selects the instruction
(R82); its high digit selects the grid and its low digit the row or the address form (R8, R87 to R91).
Fields an instruction does not use are ignored on decoding and 0 on encoding (R96). -/

namespace Sys2Proof

/-! ### Byte order -/

/-- The four bytes of a word, the one at the lowest address first (R54, R55). -/
def bytesOfWord (order : ByteOrder) (w : Word) : List Byte :=
  match order with
  | .little => [w.extractLsb' 0 8, w.extractLsb' 8 8, w.extractLsb' 16 8, w.extractLsb' 24 8]
  | .big => [w.extractLsb' 24 8, w.extractLsb' 16 8, w.extractLsb' 8 8, w.extractLsb' 0 8]

/-- The word made of the bytes at a, a+1, a+2 and a+3 (R54). -/
def wordOfBytes (order : ByteOrder) (b0 b1 b2 b3 : Byte) : Word :=
  match order with
  | .little => b3 ++ b2 ++ b1 ++ b0
  | .big => b0 ++ b1 ++ b2 ++ b3

/-! ### Decoding -/

/-- Why a decoder has no instruction to give. -/
inductive DecodeError
  /-- The opcode byte is not one of the 118 (R97). -/
  | illegalOpcode (word : Word)
  /-- Fewer than the four bytes of an instruction (R80). -/
  | truncated
  deriving DecidableEq, Repr

/-- The operand fields of an instruction word, of all four formats (R83 to R85). -/
structure Fields where
  rd : RegNum
  rm : RegNum
  rn : RegNum
  imm12 : BitVec 12
  imm16 : BitVec 16
  imm20 : BitVec 20
  deriving DecidableEq, Repr

/-- The operand fields of a word under a `LAYOUT` (R82). -/
def fieldsOf (l : Layout) (w : Word) : Fields :=
  { rd := w.extractLsb' l.rd 4
    rm := w.extractLsb' l.rm 4
    rn := w.extractLsb' l.rn 4
    imm12 := w.extractLsb' l.imm12 12
    imm16 := w.extractLsb' l.imm16 16
    imm20 := w.extractLsb' l.imm20 20 }

/-- The opcode byte of a word under a `LAYOUT` (R82). -/
def opcodeField (l : Layout) (w : Word) : BitVec 8 := w.extractLsb' l.opcode 8

/-- The address form of a low opcode digit (R86, R126). -/
def decodeAddrForm (f : Fields) (digit : Nat) : Option AddrForm :=
  match digit with
  | 0 => some (.abs f.imm20)
  | 1 => some (.reg f.rm)
  | 2 => some (.off f.rm f.imm16)
  | 3 => some (.idx f.rm f.rn)
  | 4 => some (.preOff f.rm f.imm16)
  | 5 => some (.preIdx f.rm f.rn)
  | 6 => some (.postOff f.rm f.imm16)
  | 7 => some (.postIdx f.rm f.rn)
  | 8 => some (.scaled f.rm f.rn f.imm12)
  | _ => none

/-- The arithmetic mnemonic of a low opcode digit (R88). -/
def decodeArithOp (digit : Nat) : Option ArithOp :=
  match digit with
  | 0 => some .add
  | 1 => some .sub
  | 2 => some .mul
  | 3 => some .div
  | 4 => some .mod
  | 5 => some .and
  | 6 => some .orr
  | 7 => some .eor
  | 8 => some .adc
  | 9 => some .sbc
  | 10 => some .adf
  | 11 => some .suf
  | 12 => some .muf
  | 13 => some .dif
  | _ => none

/-- The move, compare or shift mnemonic of a low opcode digit (R89). -/
def decodeMoveOp (digit : Nat) : Option MoveOp :=
  match digit with
  | 0 => some .mov
  | 1 => some .mva
  | 2 => some .cmp
  | 3 => some .tst
  | 4 => some .teq
  | 5 => some .shf
  | 6 => some .sha
  | 7 => some .rot
  | 8 => some .one
  | 9 => some .fti
  | 10 => some .itf
  | 11 => some .cmf
  | _ => none

/-- The branch mnemonic of a low opcode digit (R90). -/
def decodeBranchOp (digit : Nat) : Option BranchOp :=
  match digit with
  | 0 => some .bal
  | 1 => some .beq
  | 2 => some .bne
  | 3 => some .blt
  | 4 => some .ble
  | 5 => some .bgt
  | 6 => some .bge
  | 7 => some .blr
  | _ => none

/-- The kernel mode instruction of a low opcode digit (R91). `srg` reads bits 5 and 4:0 of its
immediate and ignores the rest (R93, R222). -/
def decodeKernel (f : Fields) (digit : Nat) : Option KernelInstr :=
  match digit with
  | 0 => some (.ker f.imm20)
  | 1 => some (.srg (f.imm20.getLsbD 5) (f.imm20.extractLsb' 0 5))
  | 2 => some (.ioi f.imm20)
  | 3 => some (.rfi f.imm20)
  | 4 => some (.mkd f.rd f.rm)
  | 5 => some (.mks f.rd f.rm)
  | _ => none

/-- The cell of the card's grids that a pair of opcode digits selects (R87 to R91); every other opcode
byte is illegal (R97), 0x19, 0x29, 0x39 and 0x49 among them (R98). -/
def decodeShape (f : Fields) (high low : Nat) : Option Shape :=
  match high with
  | 1 => (decodeAddrForm f low).map (.loadStore .ldr f.rd)
  | 2 => (decodeAddrForm f low).map (.loadStore .ldb f.rd)
  | 3 => (decodeAddrForm f low).map (.loadStore .str f.rd)
  | 4 => (decodeAddrForm f low).map (.loadStore .stb f.rd)
  | 5 => (decodeArithOp low).map (.arith · f.rd f.rm (.reg f.rn))
  | 6 => (decodeArithOp low).map (.arith · f.rd f.rm (.imm f.imm16))
  | 7 => (decodeMoveOp low).map (.move · f.rd (.reg f.rm))
  | 8 => (decodeMoveOp low).map (.move · f.rd (.imm f.imm20))
  | 9 => (decodeBranchOp low).map (.branch · (.abs f.imm20))
  | 10 => (decodeBranchOp low).map (.branch · (.ind f.rd))
  | 11 => (decodeBranchOp low).map (.branch · (.rel f.rd f.imm20))
  | 12 => (decodeKernel f low).map .kernel
  | _ => none

/-- The instruction of a word under a `LAYOUT`, or the name of the reason why there is none. -/
def decodeWord (l : Layout) (w : Word) : Except DecodeError Instr :=
  match decodeShape (fieldsOf l w) ((opcodeField l w).toNat / 16) ((opcodeField l w).toNat % 16) with
  | some sh => .ok sh.instr
  | none => .error (.illegalOpcode w)

/-- The instruction at the head of a list of bytes, and the bytes after it (R80). -/
def decodeBytes (l : Layout) (order : ByteOrder) : List Byte → Except DecodeError (Instr × List Byte)
  | b0 :: b1 :: b2 :: b3 :: rest =>
    match decodeWord l (wordOfBytes order b0 b1 b2 b3) with
    | .ok i => .ok (i, rest)
    | .error e => .error e
  | _ => .error .truncated

/-! ### Encoding -/

/-- The low opcode digit of an address form (R126). -/
def AddrForm.digit : AddrForm → Nat
  | .abs _ => 0
  | .reg _ => 1
  | .off _ _ => 2
  | .idx _ _ => 3
  | .preOff _ _ => 4
  | .preIdx _ _ => 5
  | .postOff _ _ => 6
  | .postIdx _ _ => 7
  | .scaled _ _ _ => 8

/-- The high opcode digit of a load/store mnemonic (R87). -/
def LoadStoreOp.digit : LoadStoreOp → Nat
  | .ldr => 1
  | .ldb => 2
  | .str => 3
  | .stb => 4

/-- The low opcode digit of an arithmetic mnemonic (R88). -/
def ArithOp.digit : ArithOp → Nat
  | .add => 0
  | .sub => 1
  | .mul => 2
  | .div => 3
  | .mod => 4
  | .and => 5
  | .orr => 6
  | .eor => 7
  | .adc => 8
  | .sbc => 9
  | .adf => 10
  | .suf => 11
  | .muf => 12
  | .dif => 13

/-- The low opcode digit of a move, compare or shift mnemonic (R89). -/
def MoveOp.digit : MoveOp → Nat
  | .mov => 0
  | .mva => 1
  | .cmp => 2
  | .tst => 3
  | .teq => 4
  | .shf => 5
  | .sha => 6
  | .rot => 7
  | .one => 8
  | .fti => 9
  | .itf => 10
  | .cmf => 11

/-- The low opcode digit of a branch mnemonic (R90). -/
def BranchOp.digit : BranchOp → Nat
  | .bal => 0
  | .beq => 1
  | .bne => 2
  | .blt => 3
  | .ble => 4
  | .bgt => 5
  | .bge => 6
  | .blr => 7

/-- The low opcode digit of a kernel mode instruction (R91). -/
def KernelInstr.digit : KernelInstr → Nat
  | .ker _ => 0
  | .srg _ _ => 1
  | .ioi _ => 2
  | .rfi _ => 3
  | .mkd _ _ => 4
  | .mks _ _ => 5

/-- The high opcode digit of a cell (R87 to R91). -/
def Shape.highDigit : Shape → Nat
  | .loadStore op _ _ => op.digit
  | .arith _ _ _ (.reg _) => 5
  | .arith _ _ _ (.imm _) => 6
  | .move _ _ (.reg _) => 7
  | .move _ _ (.imm _) => 8
  | .branch _ (.abs _) => 9
  | .branch _ (.ind _) => 10
  | .branch _ (.rel _ _) => 11
  | .kernel _ => 12

/-- The low opcode digit of a cell (R87 to R91). -/
def Shape.lowDigit : Shape → Nat
  | .loadStore _ _ form => form.digit
  | .arith op _ _ _ => op.digit
  | .move op _ _ => op.digit
  | .branch op _ => op.digit
  | .kernel k => k.digit

/-- The opcode byte of an instruction (R87 to R91). -/
def Instr.opcode (i : Instr) : BitVec 8 :=
  BitVec.ofNat 8 (i.shape.highDigit * 16 + i.shape.lowDigit)

/-- A field put at its place in the word. -/
def placeField {n : Nat} (low : Nat) (v : BitVec n) : Word := v.setWidth 32 <<< low

/-- The operand bits of format F1 (R83). -/
def packF1 (l : Layout) (rd rm rn : RegNum) : Word :=
  placeField l.rd rd ||| placeField l.rm rm ||| placeField l.rn rn

/-- The operand bits of format F1A (R84). -/
def packF1A (l : Layout) (rd rm rn : RegNum) (imm : BitVec 12) : Word :=
  packF1 l rd rm rn ||| placeField l.imm12 imm

/-- The operand bits of format F2 (R85). -/
def packF2 (l : Layout) (rd : RegNum) (imm : BitVec 20) : Word :=
  placeField l.rd rd ||| placeField l.imm20 imm

/-- The operand bits of format F3 (R85). -/
def packF3 (l : Layout) (rd rm : RegNum) (imm : BitVec 16) : Word :=
  placeField l.rd rd ||| placeField l.rm rm ||| placeField l.imm16 imm

/-- The operand bits of a load or store, in the format of its address form (R86). -/
def packAddrForm (l : Layout) (rd : RegNum) : AddrForm → Word
  | .abs addr => packF2 l rd addr
  | .reg rm => packF3 l rd rm 0
  | .off rm imm => packF3 l rd rm imm
  | .idx rm rn => packF1 l rd rm rn
  | .preOff rm imm => packF3 l rd rm imm
  | .preIdx rm rn => packF1 l rd rm rn
  | .postOff rm imm => packF3 l rd rm imm
  | .postIdx rm rn => packF1 l rd rm rn
  | .scaled rm rn imm => packF1A l rd rm rn imm

/-- The operand bits of a kernel mode instruction (R85, R86). -/
def packKernel (l : Layout) : KernelInstr → Word
  | .ker imm => packF2 l 0 imm
  | .srg value pos => packF2 l 0 ((BitVec.ofBool value ++ pos).setWidth 20)
  | .ioi location => packF2 l 0 location
  | .rfi imm => packF2 l 0 imm
  | .mkd krd rm => packF1 l krd rm 0
  | .mks rd krm => packF1 l rd krm 0

/-- The operand bits of a cell; an unused field is 0 (R96). -/
def packShape (l : Layout) : Shape → Word
  | .loadStore _ rd form => packAddrForm l rd form
  | .arith _ rd rm (.reg rn) => packF1 l rd rm rn
  | .arith _ rd rm (.imm imm) => packF3 l rd rm imm
  | .move _ rd (.reg rm) => packF1 l rd rm 0
  | .move _ rd (.imm imm) => packF2 l rd imm
  | .branch _ (.abs addr) => packF2 l 0 addr
  | .branch _ (.ind rd) => packF2 l rd 0
  | .branch _ (.rel rd imm) => packF2 l rd imm
  | .kernel k => packKernel l k

/-- The word of an instruction under a `LAYOUT`. -/
def encodeWith (l : Layout) (i : Instr) : Word :=
  placeField l.opcode i.opcode ||| packShape l i.shape

/-- The word of an instruction under the default `LAYOUT`. -/
def encode (i : Instr) : Word := encodeWith defaultLayout i

/-- A cell of the same form with every used operand bit 1. -/
def Shape.allOnes : Shape → Shape
  | .loadStore op _ (.abs _) => .loadStore op 15#4 (.abs (BitVec.allOnes 20))
  | .loadStore op _ (.reg _) => .loadStore op 15#4 (.reg 15#4)
  | .loadStore op _ (.off _ _) => .loadStore op 15#4 (.off 15#4 (BitVec.allOnes 16))
  | .loadStore op _ (.idx _ _) => .loadStore op 15#4 (.idx 15#4 15#4)
  | .loadStore op _ (.preOff _ _) => .loadStore op 15#4 (.preOff 15#4 (BitVec.allOnes 16))
  | .loadStore op _ (.preIdx _ _) => .loadStore op 15#4 (.preIdx 15#4 15#4)
  | .loadStore op _ (.postOff _ _) => .loadStore op 15#4 (.postOff 15#4 (BitVec.allOnes 16))
  | .loadStore op _ (.postIdx _ _) => .loadStore op 15#4 (.postIdx 15#4 15#4)
  | .loadStore op _ (.scaled _ _ _) => .loadStore op 15#4 (.scaled 15#4 15#4 (BitVec.allOnes 12))
  | .arith op _ _ (.reg _) => .arith op 15#4 15#4 (.reg 15#4)
  | .arith op _ _ (.imm _) => .arith op 15#4 15#4 (.imm (BitVec.allOnes 16))
  | .move op _ (.reg _) => .move op 15#4 (.reg 15#4)
  | .move op _ (.imm _) => .move op 15#4 (.imm (BitVec.allOnes 20))
  | .branch op (.abs _) => .branch op (.abs (BitVec.allOnes 20))
  | .branch op (.ind _) => .branch op (.ind 15#4)
  | .branch op (.rel _ _) => .branch op (.rel 15#4 (BitVec.allOnes 20))
  | .kernel (.ker _) => .kernel (.ker (BitVec.allOnes 20))
  | .kernel (.srg _ _) => .kernel (.srg true 31#5)
  | .kernel (.ioi _) => .kernel (.ioi (BitVec.allOnes 20))
  | .kernel (.rfi _) => .kernel (.rfi (BitVec.allOnes 20))
  | .kernel (.mkd _ _) => .kernel (.mkd 15#4 15#4)
  | .kernel (.mks _ _) => .kernel (.mks 15#4 15#4)

/-- The bits of the word that an instruction uses: its opcode and its used operand fields (R96). -/
def usedBits (l : Layout) (i : Instr) : Word :=
  placeField l.opcode 255#8 ||| packShape l i.shape.allOnes

/-! ### Layouts -/

/-- A field of `width` bits at `low` and one of `width'` bits at `low'` share no bit. -/
def fieldsApart (low width low' width' : Nat) : Bool :=
  decide (low + width ≤ low') || decide (low' + width' ≤ low)

/-- The fields of each format lie inside the word and do not overlap (R81, R82). -/
def Layout.wf (l : Layout) : Bool :=
  decide (l.opcode + 8 ≤ 32) && decide (l.rd + 4 ≤ 32) && decide (l.rm + 4 ≤ 32) &&
    decide (l.rn + 4 ≤ 32) && decide (l.imm12 + 12 ≤ 32) && decide (l.imm16 + 16 ≤ 32) &&
    decide (l.imm20 + 20 ≤ 32) &&
  (fieldsApart l.opcode 8 l.rd 4 && fieldsApart l.opcode 8 l.rm 4 && fieldsApart l.opcode 8 l.rn 4 &&
    fieldsApart l.opcode 8 l.imm12 12 && fieldsApart l.opcode 8 l.imm16 16 &&
    fieldsApart l.opcode 8 l.imm20 20) &&
  (fieldsApart l.rd 4 l.rm 4 && fieldsApart l.rd 4 l.rn 4 && fieldsApart l.rm 4 l.rn 4) &&
  (fieldsApart l.rd 4 l.imm12 12 && fieldsApart l.rm 4 l.imm12 12 && fieldsApart l.rn 4 l.imm12 12) &&
  (fieldsApart l.rd 4 l.imm16 16 && fieldsApart l.rm 4 l.imm16 16) &&
  fieldsApart l.rd 4 l.imm20 20

/-! ### The host's question -/

/-- The instruction the decoder reads from a word numbered as `spec/opcode_table.json` numbers it, laid
out in memory in the default byte order and decoded under the default `LAYOUT`. -/
def decodeTableWord (nbits w : Nat) : Option Instr :=
  let word : Word := BitVec.ofNat 32 (w % 2 ^ nbits)
  match decodeBytes defaultLayout defaultParams.byteOrder
      (bytesOfWord defaultParams.byteOrder word) with
  | .ok (i, _) => some i
  | .error _ => none

end Sys2Proof
end

