-- ==== Sys2Proof/Machine/Flags.lean ====
section
/-! DEFINITION. The status register CPSR (10_state.md R28 to R35): its named bits under `CPSR_POS`, the
mode they hold, and every flag computation of the spec. -/

namespace Sys2Proof.Machine

/-- The bit of a status word at a position. -/
def statusBit (psr : Word) (pos : BitVec 5) : Bool := psr.getLsbD pos.toNat

/-- The status word with one bit written (R222), every other bit as it was. -/
def setStatusBit (psr : Word) (pos : BitVec 5) (b : Bool) : Word :=
  (psr &&& ~~~(1#32 <<< pos.toNat)) ||| ((BitVec.ofBool b).setWidth 32 <<< pos.toNat)

/-- The mode that the flags U, K and I hold: one-hot, any other combination is none (R33). -/
def modeOf (p : CpsrPos) (psr : Word) : Option Mode :=
  match statusBit psr p.u, statusBit psr p.k, statusBit psr p.i with
  | true, false, false => some .user
  | false, true, false => some .kernel
  | false, false, true => some .interrupt
  | _, _, _ => none

/-- The status word with U, K and I set to one mode (R220, R252), every other bit as it was. -/
def withMode (p : CpsrPos) (psr : Word) (m : Mode) : Word :=
  setStatusBit (setStatusBit (setStatusBit psr p.u (m == .user)) p.k (m == .kernel)) p.i
    (m == .interrupt)

/-- The status word with N and Z written (R30), every other bit as it was. -/
def withNZ (p : CpsrPos) (psr : Word) (n z : Bool) : Word :=
  setStatusBit (setStatusBit psr p.n n) p.z z

/-- The status word with C and V written (R172 under `CMP_WRITES_CV`), every other bit as it was. -/
def withCV (p : CpsrPos) (psr : Word) (c v : Bool) : Word :=
  setStatusBit (setStatusBit psr p.c c) p.v v

/-- N of a result: its bit 31 (R30). -/
def negativeFlag (t : Word) : Bool := t.msb

/-- Z of a result: it is 0 (R30). -/
def zeroFlag (t : Word) : Bool := t == 0

/-- C of a compare under `CMP_WRITES_CV`: no borrow, `a >= b` unsigned (R172). -/
def compareCarry (a b : Word) : Bool := decide (b.toNat ≤ a.toNat)

/-- V of a compare under `CMP_WRITES_CV`: the signed difference is outside -2^31 to 2^31 - 1 (R172). -/
def compareOverflow (a b : Word) : Bool :=
  decide (a.toInt - b.toInt < -2 ^ 31) || decide (2 ^ 31 - 1 < a.toInt - b.toInt)

/-- The status word after `cmp a, b` (R172). -/
def compareStatus (p : Params) (psr a b : Word) : Word :=
  let nz := withNZ p.cpsrPos psr (negativeFlag (a - b)) (zeroFlag (a - b))
  if p.cmpWritesCV then withCV p.cpsrPos nz (compareCarry a b) (compareOverflow a b) else nz

/-- The status word after `tst a, b` (R173). -/
def testStatus (p : Params) (psr a b : Word) : Word :=
  withNZ p.cpsrPos psr (negativeFlag (a &&& b)) (zeroFlag (a &&& b))

/-- The status word after `teq a, b` (R174). -/
def testEqStatus (p : Params) (psr a b : Word) : Word :=
  withNZ p.cpsrPos psr (negativeFlag (a ^^^ b)) (zeroFlag (a ^^^ b))

/-- The status word after `cmf a, b`: N and Z from `FCmp` (R181). -/
def floatCompareStatus (p : Params) (psr a b : Word) : Word :=
  withNZ p.cpsrPos psr (Config.fCmp a b).1 (Config.fCmp a b).2

/-- The branch conditions (R200 to R207, R213). -/
def branchTaken (p : CpsrPos) (psr : Word) (op : BranchOp) : Bool :=
  let n := statusBit psr p.n
  let z := statusBit psr p.z
  let v := statusBit psr p.v
  match op with
  | .bal => true
  | .beq => z
  | .bne => !z
  | .blt => n != v
  | .ble => z || n != v
  | .bgt => !z && n == v
  | .bge => n == v
  | .blr => true

/-- The CPSR of a launch: the mode flags of `MODE0` and the OS flag, every other bit 0 (R41, R270). -/
def launchStatus (p : CpsrPos) (m : Mode) (os : Bool) : Word :=
  setStatusBit (withMode p 0 m) p.os os

/-- The eight positions are distinct, which is all the spec asks of `CPSR_POS` (R29). -/
def cpsrPosWf (p : CpsrPos) : Bool :=
  decide ([p.n, p.z, p.c, p.v, p.u, p.k, p.i, p.os].Nodup)

end Sys2Proof.Machine
end

