-- ==== Sys2Proof/Machine/Memory.lean ====
section
/-! DEFINITION. Memory (20_memory.md R50, R52) as plain data: the bytes that hold a value, as pairs of
address and byte with addresses strictly rising. An unlisted address holds no value (10_state.md R41). -/

namespace Sys2Proof.Machine

/-- The bytes of memory that hold a value. -/
abbrev Memory := List Host.Cell

/-- What an address that memory does not list reads as: no value (R41, R242, R244, log 6). -/
def unlistedByte : Option Byte := none

/-- The byte at an address (R53), if it holds a value. -/
def Memory.read (mem : Memory) (a : Nat) : Option Byte :=
  match mem with
  | [] => unlistedByte
  | (k, v) :: rest => if k = a then some v else Memory.read rest a

/-- Memory with one byte replaced and no other changed (R55). -/
def Memory.write (mem : Memory) (a : Nat) (b : Byte) : Memory :=
  match mem with
  | [] => [(a, b)]
  | (k, v) :: rest =>
    if a < k then (a, b) :: (k, v) :: rest
    else if a = k then (a, b) :: rest
    else (k, v) :: Memory.write rest a b

/-- Memory with consecutive bytes replaced, the first at `a`. -/
def Memory.writeList (mem : Memory) (a : Nat) (bytes : List Byte) : Memory :=
  match bytes with
  | [] => mem
  | b :: rest => Memory.writeList (Memory.write mem a b) (a + 1) rest

/-- Every address listed is at least `low`, below 2^32, and greater than the one before it. -/
def Memory.risingFrom (low : Nat) (mem : Memory) : Bool :=
  match mem with
  | [] => true
  | (k, _) :: rest => decide (low ≤ k) && decide (k < 2 ^ 32) && Memory.risingFrom (k + 1) rest

/-- The canonical form: addresses strictly rising, all of 32 bits. No entry can equal what an unlisted
address reads as, which is no value. -/
def Memory.wf (mem : Memory) : Bool := Memory.risingFrom 0 mem

/-- The canonical memory that a list of cells stands for, later cells winning (DESIGN CHOICE, log 14, 33). -/
def Memory.ofCells (cells : List Host.Cell) : Memory :=
  cells.foldl (fun mem c => Memory.write mem c.1 c.2) []

end Sys2Proof.Machine
end

