-- ==== Sys2Proof/Machine/State.lean ====
section
/-! DEFINITION. The architectural state of Charm (10_state.md R20 to R41), the faults and refusals of
60_exceptions.md R240 to R246, and the state at reset. -/

namespace Sys2Proof.Machine

/-- The state. Every field is plain data. -/
structure State where
  /-- r0 to r14 of the user bank; r0 to r12 are shared by all modes (R21, R33). -/
  regs : Vector Word 15
  /-- r15, the pc: the address of the instruction being executed (R24). -/
  pc : Word
  /-- The status register, kr0 (R28, R36). -/
  cpsr : Word
  /-- kr1: the status saved on entry to kernel mode (R36, R37). -/
  kpsr : Word
  /-- kr2: register 13 of kernel mode (R33, R36). -/
  r13k : Word
  /-- kr3: register 14 of kernel mode (R33, R36). -/
  r14k : Word
  /-- kr4, printed "irsr": the status saved on entry to interrupt mode (R36, R37). -/
  ipsr : Word
  /-- kr5: register 13 of interrupt mode (R33, R36). -/
  r13i : Word
  /-- kr6: register 14 of interrupt mode (R33, R36). -/
  r14i : Word
  /-- kr7 to kr15 (R36, R38). -/
  krs : Vector Word 9
  /-- The memory (R52). -/
  mem : Memory
  /-- The hidden bit `timer_pending` (R251). -/
  timerPending : Bool
  /-- The earlier `ioi` steps, the first one first (R224). -/
  ioHistory : List IoStep
  /-- The MODEL's own field: how many free values have been drawn (log 12). -/
  draws : Nat
  /-- The parameters of R6, which no step writes (log 1). -/
  params : Params
  deriving DecidableEq, Repr

/-- A fault: the machine stops, having written nothing, and records the fault, its info and the pc of
the instruction (R240). Every one of them is safe: the spec calls the fault its own treatment, which
errs toward unprovable where the hardware goes on. -/
inductive Fault
  /-- R241, raised by the fetch: the pc is not a multiple of 4. Safe. -/
  | fetchMisaligned (pc : Word)
  /-- R242, raised by the fetch: one of the four bytes is outside `MemMap` or holds no value. Safe. -/
  | fetchAccessFault (pc : Word)
  /-- R243, raised by `step`: the opcode byte is none of the 118. Safe. -/
  | illegalInstruction (word pc : Word)
  /-- R244, raised by `ldr` and `str`: the effective address is not a multiple of 4. Safe. -/
  | misaligned (address pc : Word)
  /-- R244, raised by loads and stores: an address outside `MemMap`, or a load of a byte that holds no
  value. Safe. -/
  | accessFault (address pc : Word)
  /-- R245, raised by `div` and `mod` under `DIV0` = fault: op2 is 0. Safe. -/
  | divideByZero (pc : Word)
  /-- R246, raised by `srg`, `ioi`, `rfi`, `mkd` and `mks` in user mode under `PRIV_CHECK`. Safe. -/
  | privilegeViolation (pc : Word)
  deriving DecidableEq, Repr

/-- A refusal: the spec gives the case no meaning (R240, R246). Recorded with the pc of the
instruction. Every one of them is safe: nothing is claimed of a run that meets it. -/
inductive Refusal
  /-- An instruction that `exec` gives no meaning; raised by no arm now. Safe. -/
  | notModelled (mnemonic : String)
  /-- R26, R125: register 15 as a destination or as a base with writeback; raised by loads, stores,
  arithmetic, moves, shifts, conversions and `mks`. Safe. -/
  | writeToPc (pc : Word)
  /-- R33: U, K, I hold no mode; raised by every instruction. Safe. -/
  | badMode (pc : Word)
  /-- R125 a: a load with writeback whose rd is its base. Safe. -/
  | loadBaseEqualsDest (pc : Word)
  /-- R125 b: a store with writeback whose rd is its base. Safe. -/
  | storeBaseEqualsSource (pc : Word)
  /-- R150 to R153, R179, R181: a floating-point value from an immediate. Safe. -/
  | floatImmediate (pc : Word)
  /-- R220: `ker` outside user mode. Safe. -/
  | kerNotFromUser (pc : Word)
  /-- R220: `ker` with the OS flag 0. Safe. -/
  | kerWithoutOs (pc : Word)
  /-- R220: `ker` under `BANKING` = none. Safe. -/
  | noBankingModel (pc : Word)
  /-- R225: `rfi` in a mode its operand does not return from. Safe. -/
  | badRfi (pc : Word)
  /-- R38: `mkd` or `mks` of kr7 to kr15. Safe. -/
  | unknownKernelReg (pc : Word)
  /-- R224: `ioi` with no `IoDevice` given. Safe. -/
  | ioNotModelled (pc : Word)
  deriving DecidableEq, Repr

/-- What a meaning answers. -/
abbrev Result := Host.Outcome State Fault Refusal

/-- The state right after reset: the launch of 70_reset_and_hazards.md R270 with every argument at its
default (R41). Registers without a value of their own hold 0 (log 4) and the pc is `ENTRY` (log 5). -/
def State.reset : State :=
  { regs := Vector.replicate 15 0
    pc := resetEntry
    cpsr := launchStatus defaultParams.cpsrPos defaultParams.launchMode false
    kpsr := 0
    r13k := 0
    r14k := 0
    ipsr := 0
    r13i := 0
    r14i := 0
    krs := Vector.replicate 9 0
    mem := []
    timerPending := false
    ioHistory := []
    draws := 0
    params := defaultParams }

end Sys2Proof.Machine
end

