-- ==== Sys2Proof/Machine/Ops.lean ====
section
/-! DEFINITION. The named operations over registers and memory, and taking and returning from an
exception: the accessors every meaning reads and writes through. -/

namespace Sys2Proof.Machine

/-! ### Registers -/

/-- The registers of the machine, each with one home in the state (R20, R36). -/
inductive Register
  /-- r0 to r14 of the user bank. -/
  | gpr (i : Fin 15)
  | pc
  | cpsr
  | kpsr
  | r13k
  | r14k
  | ipsr
  | r13i
  | r14i
  /-- kr7 to kr15, numbered from 0. -/
  | kr (i : Fin 9)
  deriving DecidableEq, Repr

/-- The value of a register. -/
def State.get (s : State) (r : Register) : Word :=
  match r with
  | .gpr i => s.regs[i]
  | .pc => s.pc
  | .cpsr => s.cpsr
  | .kpsr => s.kpsr
  | .r13k => s.r13k
  | .r14k => s.r14k
  | .ipsr => s.ipsr
  | .r13i => s.r13i
  | .r14i => s.r14i
  | .kr i => s.krs[i]

/-- The state with one register written. -/
def State.set (s : State) (r : Register) (v : Word) : State :=
  match r with
  | .gpr i => { s with regs := s.regs.set i v }
  | .pc => { s with pc := v }
  | .cpsr => { s with cpsr := v }
  | .kpsr => { s with kpsr := v }
  | .r13k => { s with r13k := v }
  | .r14k => { s with r14k := v }
  | .ipsr => { s with ipsr := v }
  | .r13i => { s with r13i := v }
  | .r14i => { s with r14i := v }
  | .kr i => { s with krs := s.krs.set i v }

/-- The banked register that numbers 13 and 14 name in a mode, if any (R33). -/
def bankedHome (b : Banking) (m : Mode) (r : RegNum) : Option Register :=
  match b, m with
  | .banked, .kernel => if r = 13#4 then some .r13k else if r = 14#4 then some .r14k else none
  | .banked, .interrupt => if r = 13#4 then some .r13i else if r = 14#4 then some .r14i else none
  | .banked, .user => none
  | .none, _ => none

/-- The register of the user bank that a number names; 15 is the pc (R21, R24). -/
def userHome (r : RegNum) : Register :=
  if h : r.toNat < 15 then .gpr ⟨r.toNat, h⟩ else .pc

/-- The register that a number names in a mode (R33). -/
def home (b : Banking) (m : Mode) (r : RegNum) : Register :=
  (bankedHome b m r).getD (userHome r)

/-- A read of a general register in a mode (R10); register 15 reads pc + `PC_READ_OFFSET` (R24). -/
def State.readReg (s : State) (m : Mode) (r : RegNum) : Word :=
  if r = 15#4 then s.pc + s.params.pcReadOffset else s.get (home s.params.banking m r)

/-- A write of a general register in a mode (R10). Register 15 is refused before this (R26). -/
def State.writeReg (s : State) (m : Mode) (r : RegNum) (v : Word) : State :=
  s.set (home s.params.banking m r) v

/-- The state at the next instruction: `pc <- pc + 4`, modulo 2^32 (R25). -/
def State.advance (s : State) : State := { s with pc := s.pc + 4#32 }

/-- The mode the CPSR holds, if it holds one (R33). -/
def State.mode (s : State) : Option Mode := modeOf s.params.cpsrPos s.cpsr

/-- The bit of the CPSR at a position. -/
def State.flag (s : State) (pos : BitVec 5) : Bool := statusBit s.cpsr pos

/-- The kernel register of a number (R36). -/
def kernelHome (n : RegNum) : Register :=
  match n.toNat with
  | 0 => .cpsr
  | 1 => .kpsr
  | 2 => .r13k
  | 3 => .r14k
  | 4 => .ipsr
  | 5 => .r13i
  | 6 => .r14i
  | k => .kr (Fin.ofNat 9 (k - 7))

/-! ### Memory -/

/-- Whether an address is in `MemMap` (R52). -/
def inMap (regions : List Region) (a : Nat) : Bool :=
  regions.any fun r => decide (r.base ≤ a) && decide (a < r.base + r.size)

/-- Whether the four bytes from an address are in `MemMap` (R54). -/
def wordInMap (regions : List Region) (a : Nat) : Bool :=
  inMap regions a && inMap regions (a + 1) && inMap regions (a + 2) && inMap regions (a + 3)

/-- The memory that a list of cells gives the machine: those at addresses of `MemMap`, in canonical form
(R52), the later cell winning where an address stands twice (DESIGN CHOICE). A device's answer (log 14)
and a launch's image with its data (log 33) go through it. -/
def memoryOf (regions : List Region) (cells : List Host.Cell) : Memory :=
  Memory.ofCells (cells.filter fun c => decide (c.1 < 2 ^ 32) && inMap regions c.1)

/-- The byte at an address, if the address is in `MemMap` and the byte holds a value (R53). -/
def State.byte? (s : State) (a : Nat) : Option Byte :=
  if inMap s.params.memMap a then s.mem.read a else none

/-- The word at an address, if its four bytes are in `MemMap` and hold values (R54). -/
def State.word? (s : State) (a : Nat) : Option Word :=
  match s.byte? a, s.byte? (a + 1), s.byte? (a + 2), s.byte? (a + 3) with
  | some b0, some b1, some b2, some b3 => some (wordOfBytes s.params.byteOrder b0 b1 b2 b3)
  | _, _, _, _ => none

/-- `MemRead(a, 1)` (R53, R244). -/
def State.loadByte (s : State) (a : Word) : Except Fault Byte :=
  match s.byte? a.toNat with
  | some b => .ok b
  | none => .error (.accessFault a s.pc)

/-- `MemRead(a, 4)` (R54, R59, R244). -/
def State.loadWord (s : State) (a : Word) : Except Fault Word :=
  if a.toNat % 4 = 0 then
    match s.word? a.toNat with
    | some w => .ok w
    | none => .error (.accessFault a s.pc)
  else .error (.misaligned a s.pc)

/-- `MemWrite(a, 1, v)`: the byte at a becomes v[7:0] (R55, R244). -/
def State.storeByte (s : State) (a v : Word) : Except Fault State :=
  if inMap s.params.memMap a.toNat then
    .ok { s with mem := s.mem.write a.toNat (v.extractLsb' 0 8) }
  else .error (.accessFault a s.pc)

/-- `MemWrite(a, 4, v)`: the four bytes from a, in the byte order (R55, R59, R244). -/
def State.storeWord (s : State) (a v : Word) : Except Fault State :=
  if a.toNat % 4 = 0 then
    if wordInMap s.params.memMap a.toNat then
      .ok { s with mem := s.mem.writeList a.toNat (bytesOfWord s.params.byteOrder v) }
    else .error (.accessFault a s.pc)
  else .error (.misaligned a s.pc)

/-- `Fetch(pc)`: `MemRead` with its own fault names (R56, R241, R242). -/
def State.fetch (s : State) : Except Fault Word :=
  if s.pc.toNat % 4 = 0 then
    match s.word? s.pc.toNat with
    | some w => .ok w
    | none => .error (.fetchAccessFault s.pc)
  else .error (.fetchMisaligned s.pc)

/-! ### What guards a meaning (R249) -/

/-- Run a meaning in the current mode; with no mode the instruction is refused (R33). -/
def State.inMode (s : State) (k : Mode → Result) : Result :=
  match s.mode with
  | some m => k m
  | none => .refused (.badMode s.pc)

/-- Run a meaning that user mode may not run, under `PRIV_CHECK` (R228, R246). -/
def State.privileged (s : State) (k : Mode → Result) : Result :=
  s.inMode fun m =>
    if s.params.privCheck && m == .user then .fault (.privilegeViolation s.pc) else k m

/-- Refuse a destination field of 15 (R26). -/
def State.writing (s : State) (rd : RegNum) (r : Result) : Result :=
  if rd = 15#4 then .refused (.writeToPc s.pc) else r

/-- What R26 and R125 refuse of a load. -/
def State.guardLoad (s : State) (rd : RegNum) (form : AddrForm) (r : Result) : Result :=
  if rd = 15#4 ∨ form.writebackBase = some 15#4 then .refused (.writeToPc s.pc)
  else if form.writebackBase = some rd then .refused (.loadBaseEqualsDest s.pc)
  else r

/-- What R26 and R125 refuse of a store. -/
def State.guardStore (s : State) (rd : RegNum) (form : AddrForm) (r : Result) : Result :=
  if form.writebackBase = some 15#4 then .refused (.writeToPc s.pc)
  else if form.writebackBase = some rd then .refused (.storeBaseEqualsSource s.pc)
  else r

/-! ### Exceptions: the kernel call and the timer interrupt (R248, R252) -/

/-- The two events that enter a privileged mode (R259). -/
inductive Event
  | kernelCall
  | timer
  deriving DecidableEq, Repr

/-- The mode an event enters (R220, R252). -/
def Event.mode : Event → Mode
  | .kernelCall => .kernel
  | .timer => .interrupt

/-- The register an event saves the CPSR into (R37). -/
def Event.savedStatus : Event → Register
  | .kernelCall => .kpsr
  | .timer => .ipsr

/-- The register an event saves the return address into (R220, R252). -/
def Event.link : Event → Register
  | .kernelCall => .r14k
  | .timer => .r14i

/-- Where an event sends the pc (R220, R252). -/
def Event.vector (e : Event) (p : Params) : Word :=
  match e with
  | .kernelCall => p.osBase
  | .timer => p.tmrVector

/-- Taking an event: the CPSR is saved, the mode flags change, the return address is saved and the pc
goes to the event's vector; nothing else changes (R220, R252). -/
def State.enter (s : State) (e : Event) (returnAddress : Word) : State :=
  (((s.set e.savedStatus s.cpsr).set .cpsr (withMode s.params.cpsrPos s.cpsr e.mode)).set e.link
    returnAddress).set .pc (e.vector s.params)

/-- Returning from an event: all of the CPSR comes back from the saved status, and the pc from the
saved return address (R225). -/
def State.leave (s : State) (e : Event) : State :=
  (s.set .pc (s.get e.link)).set .cpsr (s.get e.savedStatus)

/-- The timer interrupt's entry: `State.enter` at the instruction about to be fetched, and the pending
bit is cleared (R252). -/
def State.takeTimer (s : State) : State :=
  { s.enter .timer s.pc with timerPending := false }

end Sys2Proof.Machine
end

