-- ==== Sys2Proof/Machine/Boundary.lean ====
section
/-! DEFINITION. What happens between two instructions: the timer's move and the interrupt (60_exceptions.md
R251, R252, R254), and the end of a run (70_reset_and_hazards.md R274, R275). -/

namespace Sys2Proof.Machine

/-- The timer's move "raise" at an instruction boundary: it may set the pending bit (R251). Whether it
does is a free value (log 12). -/
def State.timerMove (s : State) : State :=
  if s.params.timerPresent then
    { s with
      timerPending := s.timerPending || Config.timerRaise s.draws
      draws := s.draws + 1 }
  else s

/-- Whether the pending interrupt is taken at this boundary: only if it is pending after the timer's
move, in mode U or K, and any delay is admitted (R252, R254). -/
def State.takesTimer (s : State) : Bool :=
  s.params.timerPresent && (s.timerPending || Config.timerRaise s.draws) &&
    (s.mode == some .user || s.mode == some .kernel) && Config.timerTake s.draws

/-- The run is over: the pc is `END_PC`; with a timer present, only in the mode the launch started in
(R274, R275). -/
def State.atEnd (s : State) : Bool :=
  (match s.params.endPc with
    | some e => s.pc == e
    | none => false) &&
  (!s.params.timerPresent || s.mode == some s.params.launchMode)

end Sys2Proof.Machine
end

