-- ==== Sys2Proof/Machine/Operands.lean ====
section
/-! DEFINITION. Operands: the extension of immediates (30_encoding.md R92 to R95), op2 (41_arith_logic.md
R154, R155; 42_move_compare_shift.md R182, R183), the shift operations (R175 to R177, R184), the address
forms (40_load_store.md R114 to R122), the branch targets (43_branch.md R208 to R210) and division. -/

namespace Sys2Proof.Machine

/-- A field extended to a word (R9). -/
def extend {n : Nat} (e : Extension) (v : BitVec n) : Word :=
  match e with
  | .zero => v.setWidth 32
  | .sign => v.signExtend 32

/-! ### Shifts -/

/-- The direction of a shift (R184). -/
inductive Direction
  | left
  | right
  deriving DecidableEq, Repr

/-- The count of a shift: the magnitude of the operand modulo 32 (R184). -/
def shiftCount (b : Word) : Nat := b.toInt.natAbs % 32

/-- The direction of a shift: right if the operand is negative (R184). -/
def shiftDirection (b : Word) : Direction := if b.toInt < 0 then .right else .left

/-- `ShiftLogical` (R175). -/
def shiftLogical (v b : Word) : Word :=
  match shiftDirection b with
  | .left => v <<< shiftCount b
  | .right => v >>> shiftCount b

/-- `sha`: the right shift copies bit 31 and the left shift copies bit 0 (R176). -/
def shiftArithmetic (v b : Word) : Word :=
  match shiftDirection b with
  | .left =>
    (v <<< shiftCount b) |||
      (if v.getLsbD 0 then BitVec.ofNat 32 (2 ^ shiftCount b - 1) else 0)
  | .right => v.sshiftRight (shiftCount b)

/-- `rot` (R177). -/
def rotate (v b : Word) : Word :=
  if shiftCount b = 0 then v
  else
    match shiftDirection b with
    | .left => (v <<< shiftCount b) ||| (v >>> (32 - shiftCount b))
    | .right => (v >>> shiftCount b) ||| (v <<< (32 - shiftCount b))

/-! ### Division -/

/-- The default `DivS`: the signed quotient truncated toward zero. -2^31 / -1 is 0x80000000, marked
assumed by R143 (log 17). -/
def truncDiv (a b : Word) : Word := BitVec.ofInt 32 (a.toInt.tdiv b.toInt)

/-- `DivS` (R143). -/
def divS (p : Params) (a b : Word) : Word :=
  match p.divS with
  | .standard => truncDiv a b
  | .given => Config.divS a b

/-- `ModS`, the function paired with `DivS` (R144). -/
def modS (p : Params) (a b : Word) : Word := a - divS p a b * b

/-! ### Carry -/

/-- C as the number 0 or 1 (R148). -/
def State.carry (s : State) : Word := if s.flag s.params.cpsrPos.c then 1 else 0

/-- `adc` (R148). -/
def State.addCarry (s : State) (a b : Word) : Word := a + b + s.carry

/-- `sbc` under either `SBC_BORROW` (R149). -/
def State.subCarry (s : State) (a b : Word) : Word :=
  match s.params.sbcBorrow with
  | .arm => a - b - (1 - s.carry)
  | .plain => a - b - s.carry

/-! ### op2 -/

/-- The op2 value of an arithmetic or logic instruction (R154, R155, R94). -/
def State.arithOp2 (s : State) (m : Mode) (o : ArithOperand) : Word :=
  match o with
  | .reg rn => s.readReg m rn
  | .imm imm => extend s.params.arithImm16Ext imm

/-- The op2 value of a move, compare or shift instruction (R182, R183). -/
def State.moveOp2 (s : State) (m : Mode) (o : MoveOperand) : Word :=
  match o with
  | .reg rm => s.readReg m rm
  | .imm imm => extend .sign imm

/-- The op2 value of `mva`: the immediate is zero-extended (R171). -/
def State.mvaOp2 (s : State) (m : Mode) (o : MoveOperand) : Word :=
  match o with
  | .reg rm => s.readReg m rm
  | .imm imm => extend .zero imm

/-! ### Address forms -/

/-- `IndexShift` (R122). -/
def indexShift (p : Params) (v : Word) (imm : BitVec 12) : Word :=
  match p.indexShift with
  | .standard => shiftLogical v (extend .sign imm)
  | .given => Config.indexShift v imm

/-- The effective address of an address form (R114 to R122), modulo 2^32 (R67). -/
def State.effectiveAddress (s : State) (m : Mode) (form : AddrForm) : Word :=
  match form with
  | .abs addr => extend .zero addr
  | .reg rm => s.readReg m rm
  | .off rm imm => s.readReg m rm + extend .sign imm
  | .idx rm rn => s.readReg m rm + s.readReg m rn
  | .preOff rm imm => s.readReg m rm + extend .sign imm
  | .preIdx rm rn => s.readReg m rm + s.readReg m rn
  | .postOff rm _ => s.readReg m rm
  | .postIdx rm _ => s.readReg m rm
  | .scaled rm rn imm => s.readReg m rm + indexShift s.params (s.readReg m rn) imm

/-- The base update of an address form (R118 to R121): the base register and its new value. -/
def State.baseUpdate (s : State) (m : Mode) (form : AddrForm) : Option (RegNum × Word) :=
  match form with
  | .preOff rm imm => some (rm, s.readReg m rm + extend .sign imm)
  | .preIdx rm rn => some (rm, s.readReg m rm + s.readReg m rn)
  | .postOff rm imm => some (rm, s.readReg m rm + extend .sign imm)
  | .postIdx rm rn => some (rm, s.readReg m rm + s.readReg m rn)
  | .abs _ => none
  | .reg _ => none
  | .off _ _ => none
  | .idx _ _ => none
  | .scaled _ _ _ => none

/-- The state after a base update computed before the access (R124). -/
def State.applyUpdate (s : State) (m : Mode) (u : Option (RegNum × Word)) : State :=
  match u with
  | some (r, v) => s.writeReg m r v
  | none => s

/-! ### Branch targets -/

/-- The target of a branch (R208 to R210). -/
def State.target (s : State) (m : Mode) (d : Dest) : Word :=
  match d with
  | .abs addr => extend .zero addr
  | .ind rd => s.readReg m rd
  | .rel rd imm => s.readReg m rd + extend .sign imm

end Sys2Proof.Machine
end

