-- ==== Sys2Proof/Machine/Arith.lean ====
section
/-! DEFINITION. The arithmetic and logic instructions (41_arith_logic.md): shared operations and one
meaning for each of the 28 opcodes. None writes a flag (R30, R157); all sources are read before rd is
written (R11). -/

namespace Sys2Proof.Machine

/-- `op rd, rm, op2` for a total function of the two source values (R140 to R142, R145 to R153). -/
def State.arith (s : State) (f : Word → Word → Word) (rd rm : RegNum) (o : ArithOperand) : Result :=
  s.inMode fun m =>
    s.writing rd <| .next (s.writeReg m rd (f (s.readReg m rm) (s.arithOp2 m o))).advance

/-- `div` and `mod`: a zero op2 faults or draws a free value as `DIV0` says (R143, R144, R245, log 16). -/
def State.divide (s : State) (f : Word → Word → Word) (rd rm : RegNum) (o : ArithOperand) : Result :=
  s.inMode fun m =>
    s.writing rd <|
      if s.arithOp2 m o = 0#32 then
        match s.params.div0 with
        | .fault => .fault (.divideByZero s.pc)
        | .draw =>
          .next { (s.writeReg m rd (Config.divZeroDraw s.draws)).advance with draws := s.draws + 1 }
      else .next (s.writeReg m rd (f (s.readReg m rm) (s.arithOp2 m o))).advance

/-- A floating-point instruction with an immediate op2 that writes rd: refused (R150 to R153, R179). -/
def State.floatImmediate (s : State) (rd : RegNum) : Result :=
  s.inMode fun _ => s.writing rd <| .refused (.floatImmediate s.pc)

/-- 0x50 `add rd, rm, rn` (R140, R154). -/
def execAddReg (rd rm rn : RegNum) (s : State) : Result :=
  s.arith (· + ·) rd rm (.reg rn)

/-- 0x51 `sub rd, rm, rn` (R141, R154). -/
def execSubReg (rd rm rn : RegNum) (s : State) : Result :=
  s.arith (· - ·) rd rm (.reg rn)

/-- 0x52 `mul rd, rm, rn` (R142, R154). -/
def execMulReg (rd rm rn : RegNum) (s : State) : Result :=
  s.arith (· * ·) rd rm (.reg rn)

/-- 0x53 `div rd, rm, rn` (R143, R154). -/
def execDivReg (rd rm rn : RegNum) (s : State) : Result :=
  s.divide (divS s.params) rd rm (.reg rn)

/-- 0x54 `mod rd, rm, rn` (R144, R154). -/
def execModReg (rd rm rn : RegNum) (s : State) : Result :=
  s.divide (modS s.params) rd rm (.reg rn)

/-- 0x55 `and rd, rm, rn` (R145, R154). -/
def execAndReg (rd rm rn : RegNum) (s : State) : Result :=
  s.arith (· &&& ·) rd rm (.reg rn)

/-- 0x56 `orr rd, rm, rn` (R146, R154). -/
def execOrrReg (rd rm rn : RegNum) (s : State) : Result :=
  s.arith (· ||| ·) rd rm (.reg rn)

/-- 0x57 `eor rd, rm, rn` (R147, R154). -/
def execEorReg (rd rm rn : RegNum) (s : State) : Result :=
  s.arith (· ^^^ ·) rd rm (.reg rn)

/-- 0x58 `adc rd, rm, rn` (R148, R154). -/
def execAdcReg (rd rm rn : RegNum) (s : State) : Result :=
  s.arith s.addCarry rd rm (.reg rn)

/-- 0x59 `sbc rd, rm, rn` (R149, R154). -/
def execSbcReg (rd rm rn : RegNum) (s : State) : Result :=
  s.arith s.subCarry rd rm (.reg rn)

/-- 0x5a `adf rd, rm, rn` (R150, R154). -/
def execAdfReg (rd rm rn : RegNum) (s : State) : Result :=
  s.arith Config.fAdd rd rm (.reg rn)

/-- 0x5b `suf rd, rm, rn` (R151, R154). -/
def execSufReg (rd rm rn : RegNum) (s : State) : Result :=
  s.arith Config.fSub rd rm (.reg rn)

/-- 0x5c `muf rd, rm, rn` (R152, R154). -/
def execMufReg (rd rm rn : RegNum) (s : State) : Result :=
  s.arith Config.fMul rd rm (.reg rn)

/-- 0x5d `dif rd, rm, rn` (R153, R154). -/
def execDifReg (rd rm rn : RegNum) (s : State) : Result :=
  s.arith Config.fDiv rd rm (.reg rn)

/-- 0x60 `add rd, rm, imm16` (R140, R155). -/
def execAddImm (rd rm : RegNum) (imm : BitVec 16) (s : State) : Result :=
  s.arith (· + ·) rd rm (.imm imm)

/-- 0x61 `sub rd, rm, imm16` (R141, R155). -/
def execSubImm (rd rm : RegNum) (imm : BitVec 16) (s : State) : Result :=
  s.arith (· - ·) rd rm (.imm imm)

/-- 0x62 `mul rd, rm, imm16` (R142, R155). -/
def execMulImm (rd rm : RegNum) (imm : BitVec 16) (s : State) : Result :=
  s.arith (· * ·) rd rm (.imm imm)

/-- 0x63 `div rd, rm, imm16` (R143, R155). -/
def execDivImm (rd rm : RegNum) (imm : BitVec 16) (s : State) : Result :=
  s.divide (divS s.params) rd rm (.imm imm)

/-- 0x64 `mod rd, rm, imm16` (R144, R155). -/
def execModImm (rd rm : RegNum) (imm : BitVec 16) (s : State) : Result :=
  s.divide (modS s.params) rd rm (.imm imm)

/-- 0x65 `and rd, rm, imm16` (R145, R155). -/
def execAndImm (rd rm : RegNum) (imm : BitVec 16) (s : State) : Result :=
  s.arith (· &&& ·) rd rm (.imm imm)

/-- 0x66 `orr rd, rm, imm16` (R146, R155). -/
def execOrrImm (rd rm : RegNum) (imm : BitVec 16) (s : State) : Result :=
  s.arith (· ||| ·) rd rm (.imm imm)

/-- 0x67 `eor rd, rm, imm16` (R147, R155). -/
def execEorImm (rd rm : RegNum) (imm : BitVec 16) (s : State) : Result :=
  s.arith (· ^^^ ·) rd rm (.imm imm)

/-- 0x68 `adc rd, rm, imm16` (R148, R155). -/
def execAdcImm (rd rm : RegNum) (imm : BitVec 16) (s : State) : Result :=
  s.arith s.addCarry rd rm (.imm imm)

/-- 0x69 `sbc rd, rm, imm16` (R149, R155). -/
def execSbcImm (rd rm : RegNum) (imm : BitVec 16) (s : State) : Result :=
  s.arith s.subCarry rd rm (.imm imm)

/-- 0x6a `adf rd, rm, imm16` (R150, R155). -/
def execAdfImm (rd _rm : RegNum) (_imm : BitVec 16) (s : State) : Result :=
  s.floatImmediate rd

/-- 0x6b `suf rd, rm, imm16` (R151, R155). -/
def execSufImm (rd _rm : RegNum) (_imm : BitVec 16) (s : State) : Result :=
  s.floatImmediate rd

/-- 0x6c `muf rd, rm, imm16` (R152, R155). -/
def execMufImm (rd _rm : RegNum) (_imm : BitVec 16) (s : State) : Result :=
  s.floatImmediate rd

/-- 0x6d `dif rd, rm, imm16` (R153, R155). -/
def execDifImm (rd _rm : RegNum) (_imm : BitVec 16) (s : State) : Result :=
  s.floatImmediate rd

end Sys2Proof.Machine
end

