-- ==== Sys2Proof/Machine/Branch.lean ====
section
/-! DEFINITION. The branches (43_branch.md): two shared operations and one meaning for each of the 24
opcodes. A branch checks nothing of its target (R211) and there is no delay slot. -/

namespace Sys2Proof.Machine

/-- A branch without link: to its target if the condition holds, else to the next instruction (R200 to
R206). -/
def State.branch (s : State) (op : BranchOp) (d : Dest) : Result :=
  s.inMode fun m =>
    if branchTaken s.params.cpsrPos s.cpsr op then .next { s with pc := s.target m d }
    else .next s.advance

/-- `blr`: the target is computed before register 14 of the current mode receives pc + 4 (R207). -/
def State.branchLink (s : State) (d : Dest) : Result :=
  s.inMode fun m => .next { s.writeReg m 14#4 (s.pc + 4#32) with pc := s.target m d }

/-- 0x90 `bal addr20` (R200, R208). -/
def execBalAbs (addr : BitVec 20) (s : State) : Result :=
  s.branch .bal (.abs addr)

/-- 0x91 `beq addr20` (R201, R208). -/
def execBeqAbs (addr : BitVec 20) (s : State) : Result :=
  s.branch .beq (.abs addr)

/-- 0x92 `bne addr20` (R202, R208). -/
def execBneAbs (addr : BitVec 20) (s : State) : Result :=
  s.branch .bne (.abs addr)

/-- 0x93 `blt addr20` (R203, R208). -/
def execBltAbs (addr : BitVec 20) (s : State) : Result :=
  s.branch .blt (.abs addr)

/-- 0x94 `ble addr20` (R204, R208). -/
def execBleAbs (addr : BitVec 20) (s : State) : Result :=
  s.branch .ble (.abs addr)

/-- 0x95 `bgt addr20` (R205, R208). -/
def execBgtAbs (addr : BitVec 20) (s : State) : Result :=
  s.branch .bgt (.abs addr)

/-- 0x96 `bge addr20` (R206, R208). -/
def execBgeAbs (addr : BitVec 20) (s : State) : Result :=
  s.branch .bge (.abs addr)

/-- 0x97 `blr addr20` (R207, R208). -/
def execBlrAbs (addr : BitVec 20) (s : State) : Result :=
  s.branchLink (.abs addr)

/-- 0xa0 `bal [rd]` (R200, R209). -/
def execBalInd (rd : RegNum) (s : State) : Result :=
  s.branch .bal (.ind rd)

/-- 0xa1 `beq [rd]` (R201, R209). -/
def execBeqInd (rd : RegNum) (s : State) : Result :=
  s.branch .beq (.ind rd)

/-- 0xa2 `bne [rd]` (R202, R209). -/
def execBneInd (rd : RegNum) (s : State) : Result :=
  s.branch .bne (.ind rd)

/-- 0xa3 `blt [rd]` (R203, R209). -/
def execBltInd (rd : RegNum) (s : State) : Result :=
  s.branch .blt (.ind rd)

/-- 0xa4 `ble [rd]` (R204, R209). -/
def execBleInd (rd : RegNum) (s : State) : Result :=
  s.branch .ble (.ind rd)

/-- 0xa5 `bgt [rd]` (R205, R209). -/
def execBgtInd (rd : RegNum) (s : State) : Result :=
  s.branch .bgt (.ind rd)

/-- 0xa6 `bge [rd]` (R206, R209). -/
def execBgeInd (rd : RegNum) (s : State) : Result :=
  s.branch .bge (.ind rd)

/-- 0xa7 `blr [rd]` (R207, R209). -/
def execBlrInd (rd : RegNum) (s : State) : Result :=
  s.branchLink (.ind rd)

/-- 0xb0 `bal !label (rd = 15, imm20 = offset)` (R200, R210). -/
def execBalRel (rd : RegNum) (imm : BitVec 20) (s : State) : Result :=
  s.branch .bal (.rel rd imm)

/-- 0xb1 `beq !label (rd = 15, imm20 = offset)` (R201, R210). -/
def execBeqRel (rd : RegNum) (imm : BitVec 20) (s : State) : Result :=
  s.branch .beq (.rel rd imm)

/-- 0xb2 `bne !label (rd = 15, imm20 = offset)` (R202, R210). -/
def execBneRel (rd : RegNum) (imm : BitVec 20) (s : State) : Result :=
  s.branch .bne (.rel rd imm)

/-- 0xb3 `blt !label (rd = 15, imm20 = offset)` (R203, R210). -/
def execBltRel (rd : RegNum) (imm : BitVec 20) (s : State) : Result :=
  s.branch .blt (.rel rd imm)

/-- 0xb4 `ble !label (rd = 15, imm20 = offset)` (R204, R210). -/
def execBleRel (rd : RegNum) (imm : BitVec 20) (s : State) : Result :=
  s.branch .ble (.rel rd imm)

/-- 0xb5 `bgt !label (rd = 15, imm20 = offset)` (R205, R210). -/
def execBgtRel (rd : RegNum) (imm : BitVec 20) (s : State) : Result :=
  s.branch .bgt (.rel rd imm)

/-- 0xb6 `bge !label (rd = 15, imm20 = offset)` (R206, R210). -/
def execBgeRel (rd : RegNum) (imm : BitVec 20) (s : State) : Result :=
  s.branch .bge (.rel rd imm)

/-- 0xb7 `blr !label (rd = 15, imm20 = offset)` (R207, R210). -/
def execBlrRel (rd : RegNum) (imm : BitVec 20) (s : State) : Result :=
  s.branchLink (.rel rd imm)

end Sys2Proof.Machine
end

