-- ==== Sys2Proof/Machine/Kernel.lean ====
section
/-! DEFINITION. The kernel mode instructions (44_kernel.md). -/

namespace Sys2Proof.Machine

/-- r0 to r14 as the current mode names them, for `IoDevice` (R224, log 29). -/
def State.generalRegs (s : State) (m : Mode) : Vector Word 15 :=
  Vector.ofFn fun i : Fin 15 => s.readReg m (BitVec.ofNat 4 i.val)

/-- The state with r0 to r14, as the current mode names them, written from a list, the first at number
`n`. -/
def State.writeGeneralRegs (s : State) (m : Mode) (n : Nat) (values : List Word) : State :=
  match values with
  | [] => s
  | v :: rest => (s.writeReg m (BitVec.ofNat 4 n) v).writeGeneralRegs m (n + 1) rest

/-- 0xc0 `ker imm20` (R220): the call into the operating system. That `NoBankingModel` is tested first is
DEDUCED (log 10). -/
def execKer (imm : BitVec 20) (s : State) : Result :=
  s.inMode fun m =>
    match s.params.banking with
    | .none => .refused (.noBankingModel s.pc)
    | .banked =>
      if m ≠ .user then .refused (.kerNotFromUser s.pc)
      else if s.flag s.params.cpsrPos.os = false then .refused (.kerWithoutOs s.pc)
      else .next ((s.set (.gpr 0) (extend s.params.kerImmExt imm)).enter .kernelCall (s.pc + 4#32))

/-- 0xc1 `srg imm20` (R222): write the CPSR bit at `pos`. -/
def execSrg (value : Bool) (pos : BitVec 5) (s : State) : Result :=
  s.privileged fun _ => .next (s.set .cpsr (setStatusBit s.cpsr pos value)).advance

/-- 0xc2 `ioi imm20` (R224): the device gives new general registers and a new memory, and the step is
added to the history. With no `IoDevice` given it is refused. -/
def execIoi (location : BitVec 20) (s : State) : Result :=
  s.privileged fun m =>
    match s.params.ioDevice with
    | .absent => .refused (.ioNotModelled s.pc)
    | .given =>
      let regs := s.generalRegs m
      let answer := Config.ioDevice location regs s.mem s.ioHistory
      .next
        { (s.writeGeneralRegs m 0 answer.1.toList).advance with
          mem := memoryOf s.params.memMap answer.2
          ioHistory := s.ioHistory ++ [{ location := location, regs := regs, mem := s.mem }] }

/-- 0xc3 `rfi imm20` (R225, 60_exceptions.md R253): 0 returns from kernel mode, 1 from interrupt mode.
It does the same under `BANKING` = none (DEDUCED, log 10). -/
def execRfi (imm : BitVec 20) (s : State) : Result :=
  s.privileged fun m =>
    if imm = 0#20 ∧ m = .kernel then .next (s.leave .kernelCall)
    else if imm = 1#20 ∧ m = .interrupt then .next (s.leave .timer)
    else .refused (.badRfi s.pc)

/-- Whether a kernel register number may be accessed: kr0 to kr6 always, kr7 to kr15 by the switch of
R38. -/
def krAccessible (p : Params) (n : RegNum) : Bool :=
  decide (n.toNat < 7) || p.krStorage == .plain

/-- 0xc4 `mkd krd, rm` (R226): a general register into a kernel register. -/
def execMkd (krd rm : RegNum) (s : State) : Result :=
  s.privileged fun m =>
    if krAccessible s.params krd then .next (s.set (kernelHome krd) (s.readReg m rm)).advance
    else .refused (.unknownKernelReg s.pc)

/-- 0xc5 `mks rd, krm` (R227): a kernel register into a general register. -/
def execMks (rd krm : RegNum) (s : State) : Result :=
  s.privileged fun m =>
    s.writing rd <|
      if krAccessible s.params krm then .next (s.writeReg m rd (s.get (kernelHome krm))).advance
      else .refused (.unknownKernelReg s.pc)

end Sys2Proof.Machine
end

