-- ==== Sys2Proof/Machine/LoadStore.lean ====
section
/-! DEFINITION. The load and store instructions (40_load_store.md): four shared operations and one
meaning for each of the 36 opcodes. The order of effects is R124: address and base update from the
registers before the instruction, the access, the base register, and for a load rd. -/

namespace Sys2Proof.Machine

/-- A load that reads its value with `read` (R110, R111, R124). -/
def State.load (s : State) (read : Word → Except Fault Word) (rd : RegNum) (form : AddrForm) : Result :=
  s.inMode fun m =>
    s.guardLoad rd form <|
      match read (s.effectiveAddress m form) with
      | .ok v => .next ((s.applyUpdate m (s.baseUpdate m form)).writeReg m rd v).advance
      | .error f => .fault f

/-- A store that writes the value of rd with `write` (R112, R113, R124). -/
def State.store (s : State) (write : Word → Word → Except Fault State) (rd : RegNum)
    (form : AddrForm) : Result :=
  s.inMode fun m =>
    s.guardStore rd form <|
      match write (s.effectiveAddress m form) (s.readReg m rd) with
      | .ok s' => .next (s'.applyUpdate m (s.baseUpdate m form)).advance
      | .error f => .fault f

/-- The byte that `ldb` reads, extended as `LDB_EXT` says (R111). -/
def State.loadByteExtended (s : State) (a : Word) : Except Fault Word :=
  match s.loadByte a with
  | .ok b => .ok (extend s.params.ldbExt b)
  | .error f => .error f

/-- `ldr rd, mem` (R110). -/
def State.loadWordForm (s : State) (rd : RegNum) (form : AddrForm) : Result :=
  s.load s.loadWord rd form

/-- `ldb rd, mem` (R111). -/
def State.loadByteForm (s : State) (rd : RegNum) (form : AddrForm) : Result :=
  s.load s.loadByteExtended rd form

/-- `str rd, mem` (R112). -/
def State.storeWordForm (s : State) (rd : RegNum) (form : AddrForm) : Result :=
  s.store s.storeWord rd form

/-- `stb rd, mem` (R113). -/
def State.storeByteForm (s : State) (rd : RegNum) (form : AddrForm) : Result :=
  s.store s.storeByte rd form

/-- 0x10 `ldr rd, addr20` (R110, R114). -/
def execLdrAbs (rd : RegNum) (addr : BitVec 20) (s : State) : Result :=
  s.loadWordForm rd (.abs addr)

/-- 0x11 `ldr rd, [rm]` (R110, R115). -/
def execLdrReg (rd rm : RegNum) (s : State) : Result :=
  s.loadWordForm rd (.reg rm)

/-- 0x12 `ldr rd, [rm, imm16]` (R110, R116). -/
def execLdrOff (rd rm : RegNum) (imm : BitVec 16) (s : State) : Result :=
  s.loadWordForm rd (.off rm imm)

/-- 0x13 `ldr rd, [rm, rn]` (R110, R117). -/
def execLdrIdx (rd rm rn : RegNum) (s : State) : Result :=
  s.loadWordForm rd (.idx rm rn)

/-- 0x14 `ldr rd, [rm, imm16]!` (R110, R118). -/
def execLdrPreOff (rd rm : RegNum) (imm : BitVec 16) (s : State) : Result :=
  s.loadWordForm rd (.preOff rm imm)

/-- 0x15 `ldr rd, [rm, rn]!` (R110, R119). -/
def execLdrPreIdx (rd rm rn : RegNum) (s : State) : Result :=
  s.loadWordForm rd (.preIdx rm rn)

/-- 0x16 `ldr rd, [rm], imm16` (R110, R120). -/
def execLdrPostOff (rd rm : RegNum) (imm : BitVec 16) (s : State) : Result :=
  s.loadWordForm rd (.postOff rm imm)

/-- 0x17 `ldr rd, [rm], rn` (R110, R121). -/
def execLdrPostIdx (rd rm rn : RegNum) (s : State) : Result :=
  s.loadWordForm rd (.postIdx rm rn)

/-- 0x18 `ldr rd, [rm, rn, imm12]` (R110, R122). -/
def execLdrScaled (rd rm rn : RegNum) (imm : BitVec 12) (s : State) : Result :=
  s.loadWordForm rd (.scaled rm rn imm)

/-- 0x20 `ldb rd, addr20` (R111, R114). -/
def execLdbAbs (rd : RegNum) (addr : BitVec 20) (s : State) : Result :=
  s.loadByteForm rd (.abs addr)

/-- 0x21 `ldb rd, [rm]` (R111, R115). -/
def execLdbReg (rd rm : RegNum) (s : State) : Result :=
  s.loadByteForm rd (.reg rm)

/-- 0x22 `ldb rd, [rm, imm16]` (R111, R116). -/
def execLdbOff (rd rm : RegNum) (imm : BitVec 16) (s : State) : Result :=
  s.loadByteForm rd (.off rm imm)

/-- 0x23 `ldb rd, [rm, rn]` (R111, R117). -/
def execLdbIdx (rd rm rn : RegNum) (s : State) : Result :=
  s.loadByteForm rd (.idx rm rn)

/-- 0x24 `ldb rd, [rm, imm16]!` (R111, R118). -/
def execLdbPreOff (rd rm : RegNum) (imm : BitVec 16) (s : State) : Result :=
  s.loadByteForm rd (.preOff rm imm)

/-- 0x25 `ldb rd, [rm, rn]!` (R111, R119). -/
def execLdbPreIdx (rd rm rn : RegNum) (s : State) : Result :=
  s.loadByteForm rd (.preIdx rm rn)

/-- 0x26 `ldb rd, [rm], imm16` (R111, R120). -/
def execLdbPostOff (rd rm : RegNum) (imm : BitVec 16) (s : State) : Result :=
  s.loadByteForm rd (.postOff rm imm)

/-- 0x27 `ldb rd, [rm], rn` (R111, R121). -/
def execLdbPostIdx (rd rm rn : RegNum) (s : State) : Result :=
  s.loadByteForm rd (.postIdx rm rn)

/-- 0x28 `ldb rd, [rm, rn, imm12]` (R111, R122). -/
def execLdbScaled (rd rm rn : RegNum) (imm : BitVec 12) (s : State) : Result :=
  s.loadByteForm rd (.scaled rm rn imm)

/-- 0x30 `str rd, addr20` (R112, R114). -/
def execStrAbs (rd : RegNum) (addr : BitVec 20) (s : State) : Result :=
  s.storeWordForm rd (.abs addr)

/-- 0x31 `str rd, [rm]` (R112, R115). -/
def execStrReg (rd rm : RegNum) (s : State) : Result :=
  s.storeWordForm rd (.reg rm)

/-- 0x32 `str rd, [rm, imm16]` (R112, R116). -/
def execStrOff (rd rm : RegNum) (imm : BitVec 16) (s : State) : Result :=
  s.storeWordForm rd (.off rm imm)

/-- 0x33 `str rd, [rm, rn]` (R112, R117). -/
def execStrIdx (rd rm rn : RegNum) (s : State) : Result :=
  s.storeWordForm rd (.idx rm rn)

/-- 0x34 `str rd, [rm, imm16]!` (R112, R118). -/
def execStrPreOff (rd rm : RegNum) (imm : BitVec 16) (s : State) : Result :=
  s.storeWordForm rd (.preOff rm imm)

/-- 0x35 `str rd, [rm, rn]!` (R112, R119). -/
def execStrPreIdx (rd rm rn : RegNum) (s : State) : Result :=
  s.storeWordForm rd (.preIdx rm rn)

/-- 0x36 `str rd, [rm], imm16` (R112, R120). -/
def execStrPostOff (rd rm : RegNum) (imm : BitVec 16) (s : State) : Result :=
  s.storeWordForm rd (.postOff rm imm)

/-- 0x37 `str rd, [rm], rn` (R112, R121). -/
def execStrPostIdx (rd rm rn : RegNum) (s : State) : Result :=
  s.storeWordForm rd (.postIdx rm rn)

/-- 0x38 `str rd, [rm, rn, imm12]` (R112, R122). -/
def execStrScaled (rd rm rn : RegNum) (imm : BitVec 12) (s : State) : Result :=
  s.storeWordForm rd (.scaled rm rn imm)

/-- 0x40 `stb rd, addr20` (R113, R114). -/
def execStbAbs (rd : RegNum) (addr : BitVec 20) (s : State) : Result :=
  s.storeByteForm rd (.abs addr)

/-- 0x41 `stb rd, [rm]` (R113, R115). -/
def execStbReg (rd rm : RegNum) (s : State) : Result :=
  s.storeByteForm rd (.reg rm)

/-- 0x42 `stb rd, [rm, imm16]` (R113, R116). -/
def execStbOff (rd rm : RegNum) (imm : BitVec 16) (s : State) : Result :=
  s.storeByteForm rd (.off rm imm)

/-- 0x43 `stb rd, [rm, rn]` (R113, R117). -/
def execStbIdx (rd rm rn : RegNum) (s : State) : Result :=
  s.storeByteForm rd (.idx rm rn)

/-- 0x44 `stb rd, [rm, imm16]!` (R113, R118). -/
def execStbPreOff (rd rm : RegNum) (imm : BitVec 16) (s : State) : Result :=
  s.storeByteForm rd (.preOff rm imm)

/-- 0x45 `stb rd, [rm, rn]!` (R113, R119). -/
def execStbPreIdx (rd rm rn : RegNum) (s : State) : Result :=
  s.storeByteForm rd (.preIdx rm rn)

/-- 0x46 `stb rd, [rm], imm16` (R113, R120). -/
def execStbPostOff (rd rm : RegNum) (imm : BitVec 16) (s : State) : Result :=
  s.storeByteForm rd (.postOff rm imm)

/-- 0x47 `stb rd, [rm], rn` (R113, R121). -/
def execStbPostIdx (rd rm rn : RegNum) (s : State) : Result :=
  s.storeByteForm rd (.postIdx rm rn)

/-- 0x48 `stb rd, [rm, rn, imm12]` (R113, R122). -/
def execStbScaled (rd rm rn : RegNum) (imm : BitVec 12) (s : State) : Result :=
  s.storeByteForm rd (.scaled rm rn imm)

end Sys2Proof.Machine
end

