-- ==== Sys2Proof/Machine/Move.lean ====
section
/-! DEFINITION. The move, compare and shift instructions (42_move_compare_shift.md): shared operations and
one meaning for each of the 24 opcodes. Only the four comparisons write flags (R30). -/

namespace Sys2Proof.Machine

/-- `op rd, op2` that writes rd with a function of the old rd and op2 (R170, R175 to R180). -/
def State.move (s : State) (f : Word → Word → Word) (rd : RegNum) (o : MoveOperand) : Result :=
  s.inMode fun m =>
    s.writing rd <| .next (s.writeReg m rd (f (s.readReg m rd) (s.moveOp2 m o))).advance

/-- `mva rd, op2` (R171). -/
def State.moveAddress (s : State) (rd : RegNum) (o : MoveOperand) : Result :=
  s.inMode fun m => s.writing rd <| .next (s.writeReg m rd (s.mvaOp2 m o)).advance

/-- `op rd, op2` that writes the CPSR and not rd (R172 to R174, R181). -/
def State.compare (s : State) (status : Params → Word → Word → Word → Word) (rd : RegNum)
    (o : MoveOperand) : Result :=
  s.inMode fun m =>
    .next
      (s.set .cpsr (status s.params s.cpsr (s.readReg m rd) (s.moveOp2 m o))).advance

/-- A floating-point comparison with an immediate op2: refused (R181). -/
def State.floatCompareImmediate (s : State) : Result :=
  s.inMode fun _ => .refused (.floatImmediate s.pc)

/-- 0x70 `mov rd, rm` (R170, R182). -/
def execMovReg (rd rm : RegNum) (s : State) : Result :=
  s.move (fun _ b => b) rd (.reg rm)

/-- 0x71 `mva rd, rm` (R171, R182). -/
def execMvaReg (rd rm : RegNum) (s : State) : Result :=
  s.moveAddress rd (.reg rm)

/-- 0x72 `cmp rd, rm` (R172, R182). -/
def execCmpReg (rd rm : RegNum) (s : State) : Result :=
  s.compare compareStatus rd (.reg rm)

/-- 0x73 `tst rd, rm` (R173, R182). -/
def execTstReg (rd rm : RegNum) (s : State) : Result :=
  s.compare testStatus rd (.reg rm)

/-- 0x74 `teq rd, rm` (R174, R182). -/
def execTeqReg (rd rm : RegNum) (s : State) : Result :=
  s.compare testEqStatus rd (.reg rm)

/-- 0x75 `shf rd, rm` (R175, R182). -/
def execShfReg (rd rm : RegNum) (s : State) : Result :=
  s.move shiftLogical rd (.reg rm)

/-- 0x76 `sha rd, rm` (R176, R182). -/
def execShaReg (rd rm : RegNum) (s : State) : Result :=
  s.move shiftArithmetic rd (.reg rm)

/-- 0x77 `rot rd, rm` (R177, R182). -/
def execRotReg (rd rm : RegNum) (s : State) : Result :=
  s.move rotate rd (.reg rm)

/-- 0x78 `one rd, rm` (R178, R182). -/
def execOneReg (rd rm : RegNum) (s : State) : Result :=
  s.move (fun _ b => ~~~b) rd (.reg rm)

/-- 0x79 `fti rd, rm` (R179, R182). -/
def execFtiReg (rd rm : RegNum) (s : State) : Result :=
  s.move (fun _ b => Config.fToI b) rd (.reg rm)

/-- 0x7a `itf rd, rm` (R180, R182). -/
def execItfReg (rd rm : RegNum) (s : State) : Result :=
  s.move (fun _ b => Config.iToF b) rd (.reg rm)

/-- 0x7b `cmf rd, rm` (R181, R182). -/
def execCmfReg (rd rm : RegNum) (s : State) : Result :=
  s.compare floatCompareStatus rd (.reg rm)

/-- 0x80 `mov rd, imm20` (R170, R183). -/
def execMovImm (rd : RegNum) (imm : BitVec 20) (s : State) : Result :=
  s.move (fun _ b => b) rd (.imm imm)

/-- 0x81 `mva rd, imm20` (R171, R183). -/
def execMvaImm (rd : RegNum) (imm : BitVec 20) (s : State) : Result :=
  s.moveAddress rd (.imm imm)

/-- 0x82 `cmp rd, imm20` (R172, R183). -/
def execCmpImm (rd : RegNum) (imm : BitVec 20) (s : State) : Result :=
  s.compare compareStatus rd (.imm imm)

/-- 0x83 `tst rd, imm20` (R173, R183). -/
def execTstImm (rd : RegNum) (imm : BitVec 20) (s : State) : Result :=
  s.compare testStatus rd (.imm imm)

/-- 0x84 `teq rd, imm20` (R174, R183). -/
def execTeqImm (rd : RegNum) (imm : BitVec 20) (s : State) : Result :=
  s.compare testEqStatus rd (.imm imm)

/-- 0x85 `shf rd, imm20` (R175, R183). -/
def execShfImm (rd : RegNum) (imm : BitVec 20) (s : State) : Result :=
  s.move shiftLogical rd (.imm imm)

/-- 0x86 `sha rd, imm20` (R176, R183). -/
def execShaImm (rd : RegNum) (imm : BitVec 20) (s : State) : Result :=
  s.move shiftArithmetic rd (.imm imm)

/-- 0x87 `rot rd, imm20` (R177, R183). -/
def execRotImm (rd : RegNum) (imm : BitVec 20) (s : State) : Result :=
  s.move rotate rd (.imm imm)

/-- 0x88 `one rd, imm20` (R178, R183). -/
def execOneImm (rd : RegNum) (imm : BitVec 20) (s : State) : Result :=
  s.move (fun _ b => ~~~b) rd (.imm imm)

/-- 0x89 `fti rd, imm20` (R179, R183). -/
def execFtiImm (rd : RegNum) (_imm : BitVec 20) (s : State) : Result :=
  s.floatImmediate rd

/-- 0x8a `itf rd, imm20` (R180, R183). -/
def execItfImm (rd : RegNum) (imm : BitVec 20) (s : State) : Result :=
  s.move (fun _ b => Config.iToF b) rd (.imm imm)

/-- 0x8b `cmf rd, imm20` (R181, R183). -/
def execCmfImm (_rd : RegNum) (_imm : BitVec 20) (s : State) : Result :=
  s.floatCompareImmediate

end Sys2Proof.Machine
end

