-- ==== Sys2Proof/Machine/Dispatch.lean ====
section
/-! DEFINITION. The meaning of every instruction: one arm per constructor of `Instr`. -/

namespace Sys2Proof.Machine

def exec (i : Instr) (s : State) : Host.Outcome State Fault Refusal :=
  match i with
  | .ldrAbs rd addr => Sys2Proof.Machine.execLdrAbs rd addr s
  | .ldrReg rd rm => Sys2Proof.Machine.execLdrReg rd rm s
  | .ldrOff rd rm imm => Sys2Proof.Machine.execLdrOff rd rm imm s
  | .ldrIdx rd rm rn => Sys2Proof.Machine.execLdrIdx rd rm rn s
  | .ldrPreOff rd rm imm => Sys2Proof.Machine.execLdrPreOff rd rm imm s
  | .ldrPreIdx rd rm rn => Sys2Proof.Machine.execLdrPreIdx rd rm rn s
  | .ldrPostOff rd rm imm => Sys2Proof.Machine.execLdrPostOff rd rm imm s
  | .ldrPostIdx rd rm rn => Sys2Proof.Machine.execLdrPostIdx rd rm rn s
  | .ldrScaled rd rm rn imm => Sys2Proof.Machine.execLdrScaled rd rm rn imm s
  | .ldbAbs rd addr => Sys2Proof.Machine.execLdbAbs rd addr s
  | .ldbReg rd rm => Sys2Proof.Machine.execLdbReg rd rm s
  | .ldbOff rd rm imm => Sys2Proof.Machine.execLdbOff rd rm imm s
  | .ldbIdx rd rm rn => Sys2Proof.Machine.execLdbIdx rd rm rn s
  | .ldbPreOff rd rm imm => Sys2Proof.Machine.execLdbPreOff rd rm imm s
  | .ldbPreIdx rd rm rn => Sys2Proof.Machine.execLdbPreIdx rd rm rn s
  | .ldbPostOff rd rm imm => Sys2Proof.Machine.execLdbPostOff rd rm imm s
  | .ldbPostIdx rd rm rn => Sys2Proof.Machine.execLdbPostIdx rd rm rn s
  | .ldbScaled rd rm rn imm => Sys2Proof.Machine.execLdbScaled rd rm rn imm s
  | .strAbs rd addr => Sys2Proof.Machine.execStrAbs rd addr s
  | .strReg rd rm => Sys2Proof.Machine.execStrReg rd rm s
  | .strOff rd rm imm => Sys2Proof.Machine.execStrOff rd rm imm s
  | .strIdx rd rm rn => Sys2Proof.Machine.execStrIdx rd rm rn s
  | .strPreOff rd rm imm => Sys2Proof.Machine.execStrPreOff rd rm imm s
  | .strPreIdx rd rm rn => Sys2Proof.Machine.execStrPreIdx rd rm rn s
  | .strPostOff rd rm imm => Sys2Proof.Machine.execStrPostOff rd rm imm s
  | .strPostIdx rd rm rn => Sys2Proof.Machine.execStrPostIdx rd rm rn s
  | .strScaled rd rm rn imm => Sys2Proof.Machine.execStrScaled rd rm rn imm s
  | .stbAbs rd addr => Sys2Proof.Machine.execStbAbs rd addr s
  | .stbReg rd rm => Sys2Proof.Machine.execStbReg rd rm s
  | .stbOff rd rm imm => Sys2Proof.Machine.execStbOff rd rm imm s
  | .stbIdx rd rm rn => Sys2Proof.Machine.execStbIdx rd rm rn s
  | .stbPreOff rd rm imm => Sys2Proof.Machine.execStbPreOff rd rm imm s
  | .stbPreIdx rd rm rn => Sys2Proof.Machine.execStbPreIdx rd rm rn s
  | .stbPostOff rd rm imm => Sys2Proof.Machine.execStbPostOff rd rm imm s
  | .stbPostIdx rd rm rn => Sys2Proof.Machine.execStbPostIdx rd rm rn s
  | .stbScaled rd rm rn imm => Sys2Proof.Machine.execStbScaled rd rm rn imm s
  | .addReg rd rm rn => Sys2Proof.Machine.execAddReg rd rm rn s
  | .subReg rd rm rn => Sys2Proof.Machine.execSubReg rd rm rn s
  | .mulReg rd rm rn => Sys2Proof.Machine.execMulReg rd rm rn s
  | .divReg rd rm rn => Sys2Proof.Machine.execDivReg rd rm rn s
  | .modReg rd rm rn => Sys2Proof.Machine.execModReg rd rm rn s
  | .andReg rd rm rn => Sys2Proof.Machine.execAndReg rd rm rn s
  | .orrReg rd rm rn => Sys2Proof.Machine.execOrrReg rd rm rn s
  | .eorReg rd rm rn => Sys2Proof.Machine.execEorReg rd rm rn s
  | .adcReg rd rm rn => Sys2Proof.Machine.execAdcReg rd rm rn s
  | .sbcReg rd rm rn => Sys2Proof.Machine.execSbcReg rd rm rn s
  | .adfReg rd rm rn => Sys2Proof.Machine.execAdfReg rd rm rn s
  | .sufReg rd rm rn => Sys2Proof.Machine.execSufReg rd rm rn s
  | .mufReg rd rm rn => Sys2Proof.Machine.execMufReg rd rm rn s
  | .difReg rd rm rn => Sys2Proof.Machine.execDifReg rd rm rn s
  | .addImm rd rm imm => Sys2Proof.Machine.execAddImm rd rm imm s
  | .subImm rd rm imm => Sys2Proof.Machine.execSubImm rd rm imm s
  | .mulImm rd rm imm => Sys2Proof.Machine.execMulImm rd rm imm s
  | .divImm rd rm imm => Sys2Proof.Machine.execDivImm rd rm imm s
  | .modImm rd rm imm => Sys2Proof.Machine.execModImm rd rm imm s
  | .andImm rd rm imm => Sys2Proof.Machine.execAndImm rd rm imm s
  | .orrImm rd rm imm => Sys2Proof.Machine.execOrrImm rd rm imm s
  | .eorImm rd rm imm => Sys2Proof.Machine.execEorImm rd rm imm s
  | .adcImm rd rm imm => Sys2Proof.Machine.execAdcImm rd rm imm s
  | .sbcImm rd rm imm => Sys2Proof.Machine.execSbcImm rd rm imm s
  | .adfImm rd rm imm => Sys2Proof.Machine.execAdfImm rd rm imm s
  | .sufImm rd rm imm => Sys2Proof.Machine.execSufImm rd rm imm s
  | .mufImm rd rm imm => Sys2Proof.Machine.execMufImm rd rm imm s
  | .difImm rd rm imm => Sys2Proof.Machine.execDifImm rd rm imm s
  | .movReg rd rm => Sys2Proof.Machine.execMovReg rd rm s
  | .mvaReg rd rm => Sys2Proof.Machine.execMvaReg rd rm s
  | .cmpReg rd rm => Sys2Proof.Machine.execCmpReg rd rm s
  | .tstReg rd rm => Sys2Proof.Machine.execTstReg rd rm s
  | .teqReg rd rm => Sys2Proof.Machine.execTeqReg rd rm s
  | .shfReg rd rm => Sys2Proof.Machine.execShfReg rd rm s
  | .shaReg rd rm => Sys2Proof.Machine.execShaReg rd rm s
  | .rotReg rd rm => Sys2Proof.Machine.execRotReg rd rm s
  | .oneReg rd rm => Sys2Proof.Machine.execOneReg rd rm s
  | .ftiReg rd rm => Sys2Proof.Machine.execFtiReg rd rm s
  | .itfReg rd rm => Sys2Proof.Machine.execItfReg rd rm s
  | .cmfReg rd rm => Sys2Proof.Machine.execCmfReg rd rm s
  | .movImm rd imm => Sys2Proof.Machine.execMovImm rd imm s
  | .mvaImm rd imm => Sys2Proof.Machine.execMvaImm rd imm s
  | .cmpImm rd imm => Sys2Proof.Machine.execCmpImm rd imm s
  | .tstImm rd imm => Sys2Proof.Machine.execTstImm rd imm s
  | .teqImm rd imm => Sys2Proof.Machine.execTeqImm rd imm s
  | .shfImm rd imm => Sys2Proof.Machine.execShfImm rd imm s
  | .shaImm rd imm => Sys2Proof.Machine.execShaImm rd imm s
  | .rotImm rd imm => Sys2Proof.Machine.execRotImm rd imm s
  | .oneImm rd imm => Sys2Proof.Machine.execOneImm rd imm s
  | .ftiImm rd imm => Sys2Proof.Machine.execFtiImm rd imm s
  | .itfImm rd imm => Sys2Proof.Machine.execItfImm rd imm s
  | .cmfImm rd imm => Sys2Proof.Machine.execCmfImm rd imm s
  | .balAbs addr => Sys2Proof.Machine.execBalAbs addr s
  | .beqAbs addr => Sys2Proof.Machine.execBeqAbs addr s
  | .bneAbs addr => Sys2Proof.Machine.execBneAbs addr s
  | .bltAbs addr => Sys2Proof.Machine.execBltAbs addr s
  | .bleAbs addr => Sys2Proof.Machine.execBleAbs addr s
  | .bgtAbs addr => Sys2Proof.Machine.execBgtAbs addr s
  | .bgeAbs addr => Sys2Proof.Machine.execBgeAbs addr s
  | .blrAbs addr => Sys2Proof.Machine.execBlrAbs addr s
  | .balInd rd => Sys2Proof.Machine.execBalInd rd s
  | .beqInd rd => Sys2Proof.Machine.execBeqInd rd s
  | .bneInd rd => Sys2Proof.Machine.execBneInd rd s
  | .bltInd rd => Sys2Proof.Machine.execBltInd rd s
  | .bleInd rd => Sys2Proof.Machine.execBleInd rd s
  | .bgtInd rd => Sys2Proof.Machine.execBgtInd rd s
  | .bgeInd rd => Sys2Proof.Machine.execBgeInd rd s
  | .blrInd rd => Sys2Proof.Machine.execBlrInd rd s
  | .balRel rd imm => Sys2Proof.Machine.execBalRel rd imm s
  | .beqRel rd imm => Sys2Proof.Machine.execBeqRel rd imm s
  | .bneRel rd imm => Sys2Proof.Machine.execBneRel rd imm s
  | .bltRel rd imm => Sys2Proof.Machine.execBltRel rd imm s
  | .bleRel rd imm => Sys2Proof.Machine.execBleRel rd imm s
  | .bgtRel rd imm => Sys2Proof.Machine.execBgtRel rd imm s
  | .bgeRel rd imm => Sys2Proof.Machine.execBgeRel rd imm s
  | .blrRel rd imm => Sys2Proof.Machine.execBlrRel rd imm s
  | .ker imm => Sys2Proof.Machine.execKer imm s
  | .srg value pos => Sys2Proof.Machine.execSrg value pos s
  | .ioi location => Sys2Proof.Machine.execIoi location s
  | .rfi imm => Sys2Proof.Machine.execRfi imm s
  | .mkd krd rm => Sys2Proof.Machine.execMkd krd rm s
  | .mks rd krm => Sys2Proof.Machine.execMks rd krm s

end Sys2Proof.Machine
end

