-- ==== Sys2Proof/Machine/Step.lean ====
section
/-! DEFINITION. One step of the machine, in the order of 60_exceptions.md R249: the timer interrupt, the
end of the run, the fetch, the decoder, the instruction. -/

namespace Sys2Proof.Machine

/-- One step: either the timer interrupt is taken, or the run is over and the state stays as it is
(R274, log 13), or the instruction at the pc is fetched, decoded and executed. -/
def step (s : State) : Host.Outcome State Fault Refusal :=
  if s.takesTimer then .next s.timerMove.takeTimer
  else if s.atEnd then .next s
  else
    match s.timerMove.fetch with
    | .error f => .fault f
    | .ok w =>
      match decodeWord s.params.layout w with
      | .error _ => .fault (.illegalInstruction w s.pc)
      | .ok i => exec i s.timerMove

/-- The state with an instruction placed where `step` fetches the next one (log 7): its four bytes at the
pc, made a multiple of 4, decoded under the layout the table is written in; no end of run and no timer
there. At reset only the memory changes. -/
def State.withFetchWord (s : State) (nbits w : Nat) : State :=
  let pc : Word := s.pc &&& ~~~3#32
  { s with
    pc := pc
    mem := s.mem.writeList pc.toNat
      (bytesOfWord s.params.byteOrder (BitVec.ofNat 32 (w % 2 ^ nbits)))
    params := { s.params with layout := defaultLayout, endPc := none, timerPresent := false } }

end Sys2Proof.Machine
end

