-- ==== Sys2Proof/Machine/Assembler.lean ====
section
/-! DEFINITION. The card's assembler syntax (30_encoding.md R98 to R103) as structured lines: the operand
form a line is written in picks the opcode, and the pc-relative spelling `!label` becomes address form 2
or branch form 0xbn with register 15. Characters, label tables and comments are not modelled (log 24). -/

namespace Sys2Proof.Machine

/-- The address operand of a load or store as it is written (R101). -/
inductive AsmAddress
  | number (n : Int)
  | reg (rm : RegNum)
  | off (rm : RegNum) (n : Int)
  | idx (rm rn : RegNum)
  | preOff (rm : RegNum) (n : Int)
  | preIdx (rm rn : RegNum)
  | postOff (rm : RegNum) (n : Int)
  | postIdx (rm rn : RegNum)
  | scaled (rm rn : RegNum) (n : Int)
  /-- `!label`, with the address of the label (R98). -/
  | label (address : Word)
  deriving DecidableEq, Repr

/-- An op2 as it is written: a register or a number (R101). -/
inductive AsmOp2
  | reg (r : RegNum)
  | number (n : Int)
  deriving DecidableEq, Repr

/-- A branch target as it is written (R101). The third writes the register and the offset of the form the
machine knows: the model's own spelling, the card's is only the fourth, `!label` (log 24). -/
inductive AsmDest
  | number (n : Int)
  | ind (rd : RegNum)
  | rel (rd : RegNum) (n : Int)
  | label (address : Word)
  deriving DecidableEq, Repr

/-- A source line: a mnemonic and its operands (R100, R101). -/
inductive AsmLine
  | loadStore (op : LoadStoreOp) (rd : RegNum) (mem : AsmAddress)
  | arith (op : ArithOp) (rd rm : RegNum) (op2 : AsmOp2)
  | move (op : MoveOp) (rd : RegNum) (op2 : AsmOp2)
  | branch (op : BranchOp) (dest : AsmDest)
  | ker (n : Int)
  | srg (n : Int)
  | ioi (n : Int)
  | rfi (n : Int)
  /-- A register token stands in the kernel-register position (R103). -/
  | mkd (krd rm : RegNum)
  | mks (rd krm : RegNum)
  deriving DecidableEq, Repr

/-- A number as an unsigned field (R92). -/
def unsignedField (width : Nat) (n : Int) : Option (BitVec width) :=
  if 0 ≤ n ∧ n < 2 ^ width then some (BitVec.ofInt width n) else none

/-- A number as a two's-complement field (R93 to R95). -/
def signedField (width : Nat) (n : Int) : Option (BitVec width) :=
  if -2 ^ width ≤ 2 * n ∧ 2 * n < 2 ^ width then some (BitVec.ofInt width n) else none

/-- The offset that `!label` stands for (R102). -/
def labelOffset (p : Params) (here address : Word) : Int := (address - here - p.pcReadOffset).toInt

/-- The address form of a written address operand; `!label` is form 2 with rm = 15 (R98, R102). -/
def assembleAddress (p : Params) (here : Word) : AsmAddress → Option AddrForm
  | .number n => (unsignedField 20 n).map .abs
  | .reg rm => some (.reg rm)
  | .off rm n => (signedField 16 n).map (.off rm)
  | .idx rm rn => some (.idx rm rn)
  | .preOff rm n => (signedField 16 n).map (.preOff rm)
  | .preIdx rm rn => some (.preIdx rm rn)
  | .postOff rm n => (signedField 16 n).map (.postOff rm)
  | .postIdx rm rn => some (.postIdx rm rn)
  | .scaled rm rn n => (signedField 12 n).map (.scaled rm rn)
  | .label address => (signedField 16 (labelOffset p here address)).map (.off 15#4)

/-- The op2 of an arithmetic instruction (R94). -/
def assembleArithOp2 : AsmOp2 → Option ArithOperand
  | .reg r => some (.reg r)
  | .number n => (signedField 16 n).map .imm

/-- The op2 of a move, compare or shift instruction: two's complement but for `mva` (R93). -/
def assembleMoveOp2 (op : MoveOp) : AsmOp2 → Option MoveOperand
  | .reg r => some (.reg r)
  | .number n => (if op = .mva then unsignedField 20 n else signedField 20 n).map .imm

/-- The target of a branch; `!label` is form 0xbn with rd = 15 (R102). -/
def assembleDest (p : Params) (here : Word) : AsmDest → Option Dest
  | .number n => (unsignedField 20 n).map .abs
  | .ind rd => some (.ind rd)
  | .rel rd n => (signedField 20 n).map (.rel rd)
  | .label address => (signedField 20 (labelOffset p here address)).map (.rel 15#4)

/-- The cell of the card's grids that a line at address `here` is assembled to (R101, R102). DESIGN CHOICE,
log 32: the number of `ker`, `srg`, `ioi` and `rfi` is one from 0 to 2^20 - 1, also under `KER_IMM_EXT` =
sign; the spec says only "raw bits" (R93). -/
def assembleShape (p : Params) (here : Word) : AsmLine → Option Shape
  | .loadStore op rd mem => (assembleAddress p here mem).map (.loadStore op rd)
  | .arith op rd rm op2 => (assembleArithOp2 op2).map (.arith op rd rm)
  | .move op rd op2 => (assembleMoveOp2 op op2).map (.move op rd)
  | .branch op dest => (assembleDest p here dest).map (.branch op)
  | .ker n => (unsignedField 20 n).map fun imm => .kernel (.ker imm)
  | .srg n =>
    (unsignedField 20 n).map fun imm => .kernel (.srg (imm.getLsbD 5) (imm.extractLsb' 0 5))
  | .ioi n => (unsignedField 20 n).map fun imm => .kernel (.ioi imm)
  | .rfi n => (unsignedField 20 n).map fun imm => .kernel (.rfi imm)
  | .mkd krd rm => some (.kernel (.mkd krd rm))
  | .mks rd krm => some (.kernel (.mks rd krm))

/-- The instruction that a line at address `here` is assembled to, if its numbers fit. -/
def assemble (p : Params) (here : Word) (line : AsmLine) : Option Instr :=
  (assembleShape p here line).map Shape.instr

/-- An address form as it is written, without `!label`. -/
def listAddress : AddrForm → AsmAddress
  | .abs addr => .number addr.toNat
  | .reg rm => .reg rm
  | .off rm imm => .off rm imm.toInt
  | .idx rm rn => .idx rm rn
  | .preOff rm imm => .preOff rm imm.toInt
  | .preIdx rm rn => .preIdx rm rn
  | .postOff rm imm => .postOff rm imm.toInt
  | .postIdx rm rn => .postIdx rm rn
  | .scaled rm rn imm => .scaled rm rn imm.toInt

/-- A line as it is written for a cell of the card's grids (R101). -/
def listShape : Shape → AsmLine
  | .loadStore op rd form => .loadStore op rd (listAddress form)
  | .arith op rd rm (.reg rn) => .arith op rd rm (.reg rn)
  | .arith op rd rm (.imm imm) => .arith op rd rm (.number imm.toInt)
  | .move op rd (.reg rm) => .move op rd (.reg rm)
  | .move op rd (.imm imm) =>
    .move op rd (.number (if op = .mva then (imm.toNat : Int) else imm.toInt))
  | .branch op (.abs addr) => .branch op (.number addr.toNat)
  | .branch op (.ind rd) => .branch op (.ind rd)
  | .branch op (.rel rd imm) => .branch op (.rel rd imm.toInt)
  | .kernel (.ker imm) => .ker imm.toNat
  | .kernel (.srg value pos) => .srg ((if value then 32 else 0) + pos.toNat)
  | .kernel (.ioi location) => .ioi location.toNat
  | .kernel (.rfi imm) => .rfi imm.toNat
  | .kernel (.mkd krd rm) => .mkd krd rm
  | .kernel (.mks rd krm) => .mks rd krm

/-- The line that an instruction is written as. -/
def listing (i : Instr) : AsmLine := listShape i.shape

end Sys2Proof.Machine
end

