-- ==== Sys2Proof/Machine/Launch.lean ====
section
/-! DEFINITION. The launch that takes the place of reset (70_reset_and_hazards.md R270): the record the
host supplies and the state the machine starts from. `State.reset` is the launch of `defaultLaunch`. -/

namespace Sys2Proof.Machine

/-- The launch record (R270). That `ENTRY` and the image's addresses are multiples of 4 is not enforced
(log 33). -/
structure Launch where
  /-- `ENTRY`, the initial pc, a multiple of 4. -/
  entry : Word
  /-- The program image: words at 4-aligned addresses. -/
  image : List (Word × Word)
  /-- Initial data bytes. -/
  data : List Host.Cell
  /-- r0 to r14; one the host does not name holds 0 (log 4). -/
  regs : Vector Word 15
  /-- `MODE0`. -/
  mode0 : Mode
  /-- The OS flag. -/
  os : Bool
  /-- `END_PC`, if one is given. -/
  endPc : Option Word
  /-- The other parameters of R6. -/
  params : Params
  deriving DecidableEq, Repr

/-- The four cells of a word of the image, in the byte order (R270). -/
def wordCells (order : ByteOrder) (entry : Word × Word) : List Host.Cell :=
  match bytesOfWord order entry.2 with
  | [b0, b1, b2, b3] =>
    [(entry.1.toNat, b0), (entry.1.toNat + 1, b1), (entry.1.toNat + 2, b2), (entry.1.toNat + 3, b3)]
  | _ => []

/-- The state that a launch record gives (R41, R270). Where the image and the initial data name the same
address R270 is silent: the data stands after the image and wins, and within one list the later entry wins
(DESIGN CHOICE, log 33). -/
def launch (l : Launch) : State :=
  { regs := l.regs
    pc := l.entry
    cpsr := launchStatus l.params.cpsrPos l.mode0 l.os
    kpsr := 0
    r13k := 0
    r14k := 0
    ipsr := 0
    r13i := 0
    r14i := 0
    krs := Vector.replicate 9 0
    mem := memoryOf l.params.memMap (l.image.flatMap (wordCells l.params.byteOrder) ++ l.data)
    timerPending := false
    ioHistory := []
    draws := 0
    params := { l.params with launchMode := l.mode0, endPc := l.endPc } }

/-- The launch with every argument at its default (R41): user mode, OS flag 0, nothing in memory. -/
def defaultLaunch : Launch :=
  { entry := resetEntry
    image := []
    data := []
    regs := Vector.replicate 15 0
    mode0 := .user
    os := false
    endPc := none
    params := defaultParams }

end Sys2Proof.Machine
end

