-- ==== Sys2Proof/Safety.lean ====
section
/-! DEFINITION. The terms that claims about the machine are stated in: what a run is, when it is safe and
when it is over, the invariant of the state, and what an instruction leaves unchanged. -/

namespace Sys2Proof.Machine

/-! ### Runs -/

/-- `k` steps from a state, stopping at a fault or refusal (R240). -/
def run (k : Nat) (s : State) : Result :=
  match k with
  | 0 => .next s
  | k + 1 =>
    match step s with
    | .next s' => run k s'
    | .fault f => .fault f
    | .refused r => .refused r

/-- `k` steps meet neither a fault nor a refusal (R240). -/
def SafeFor (k : Nat) (s : State) : Prop := ∃ t, run k s = .next t

/-- The run is over in this state: it is at `END_PC` and no interrupt is taken there (R274, R275). -/
def Final (s : State) : Prop := s.atEnd = true ∧ s.takesTimer = false

/-! ### The invariant -/

/-- The parameters are ones the spec admits: fields of each format that do not overlap (R82) and eight
distinct flag positions (R29). -/
def paramsWf (p : Params) : Bool := p.layout.wf && cpsrPosWf p.cpsrPos

/-- The parameters are admitted, the memory is in canonical form, and it lists addresses of `MemMap`
only (R52). -/
def State.wf (s : State) : Bool :=
  paramsWf s.params && s.mem.wf && s.mem.all fun c => inMap s.params.memMap c.1

/-! ### Frames -/

/-- From `s` to `t` only these registers and these bytes of memory may change, and nothing else of the
state does. -/
def OnlyChanges (s t : State) (regs : Register → Prop) (bytes : Nat → Prop) : Prop :=
  (∀ r, ¬ regs r → t.get r = s.get r) ∧
  (∀ a, ¬ bytes a → t.byte? a = s.byte? a) ∧
  t.timerPending = s.timerPending ∧ t.ioHistory = s.ioHistory ∧ t.draws = s.draws ∧
  t.params = s.params

/-- No byte of memory. -/
def noByte : Nat → Prop := fun _ => False

/-- The four bytes of the word at an address. -/
def wordAt (a : Word) : Nat → Prop := fun x => a.toNat ≤ x ∧ x < a.toNat + 4

/-- The one byte at an address. -/
def byteAt (a : Word) : Nat → Prop := fun x => x = a.toNat

/-- The pc and the register that `rd` names in mode `m`. -/
def pcAnd (s : State) (m : Mode) (rd : RegNum) : Register → Prop :=
  fun r => r = .pc ∨ r = home s.params.banking m rd

/-- The pc and the base register of an address form with writeback. -/
def pcAndBase (s : State) (m : Mode) (form : AddrForm) : Register → Prop :=
  fun r => r = .pc ∨ ∃ b, form.writebackBase = some b ∧ r = home s.params.banking m b

/-- The instruction answers a next state in which `rd` holds `v` and the pc has advanced, and in which
nothing but `rd` and the pc has changed. -/
def WritesReg (i : Instr) (s : State) (m : Mode) (rd : RegNum) (v : Word) : Prop :=
  ∃ t, exec i s = .next t ∧ t.readReg m rd = v ∧ t.pc = s.pc + 4#32 ∧
    OnlyChanges s t (pcAnd s m rd) noByte

/-- The instruction answers a next state in which the pc has advanced and the CPSR is `psr`, and in
which nothing else has changed. -/
def WritesStatus (i : Instr) (s : State) (psr : Word) : Prop :=
  ∃ t, exec i s = .next t ∧ t.cpsr = psr ∧ t.pc = s.pc + 4#32 ∧
    OnlyChanges s t (fun r => r = .pc ∨ r = .cpsr) noByte

/-- The instruction answers a next state in which the pc is `target`, and in which nothing else has
changed. -/
def Jumps (i : Instr) (s : State) (target : Word) : Prop :=
  ∃ t, exec i s = .next t ∧ t.pc = target ∧ OnlyChanges s t (fun r => r = .pc) noByte

/-- Two status words agree at every position but those listed. -/
def SameStatusBut (psr psr' : Word) (positions : List (BitVec 5)) : Prop :=
  ∀ pos, pos ∉ positions → statusBit psr' pos = statusBit psr pos

/-- The instruction is refused or faults: it answers no next state. -/
def Stops (i : Instr) (s : State) : Prop := ∀ t, exec i s ≠ .next t

end Sys2Proof.Machine
end

