-- ==== Sys2Proof/Certificates/Slice0/Obligations.lean ====
section
/-! DEFINITION. The statements for the provers. A statement says for every parameter value (`State.params`,
log 1) what it says, unless a hypothesis names the value. `OnlyChanges`, `WritesReg`, `WritesStatus` and
`Jumps` (`Safety.lean`) carry the frame: every register, saved register, kernel register, byte of memory
and hidden field not named is unchanged. -/

open Sys2Proof Sys2Proof.Machine

/-! ### Encoding -/

/-- Words written out from the encodings of 40_load_store.md, 41_arith_logic.md, 42_move_compare_shift.md,
43_branch.md and 44_kernel.md decode to the instructions the spec says they are. Rests on what the spec
marks as decided, D2 (log 31). -/
def Obligations.DecodeReadsTheSpecsWords : Prop :=
  decodeTableWord 32 0x10000100 = some (.ldrAbs 0#4 0x100#20) ∧
  decodeTableWord 32 0x1221fffc = some (.ldrOff 2#4 1#4 0xfffc#16) ∧
  decodeTableWord 32 0x47213000 = some (.stbPostIdx 2#4 1#4 3#4) ∧
  decodeTableWord 32 0x18213002 = some (.ldrScaled 2#4 1#4 3#4 2#12) ∧
  decodeTableWord 32 0x50312000 = some (.addReg 3#4 1#4 2#4) ∧
  decodeTableWord 32 0x6000fffe = some (.addImm 0#4 0#4 0xfffe#16) ∧
  decodeTableWord 32 0x72120000 = some (.cmpReg 1#4 2#4) ∧
  decodeTableWord 32 0x811fffff = some (.mvaImm 1#4 0xfffff#20) ∧
  decodeTableWord 32 0xb2fffff8 = some (.bneRel 15#4 0xffff8#20) ∧
  decodeTableWord 32 0xa0e00000 = some (.balInd 14#4) ∧
  decodeTableWord 32 0xc100003d = some (.srg true 29#5) ∧
  decodeTableWord 32 0xc46e0000 = some (.mkd 6#4 14#4)

/-- Decode and encode agree, for every instruction with every operand, under every layout whose fields do
not overlap. Which layouts are admitted is the model's reading (log 20). Rests on what the spec marks as
decided, D2, D11 (log 31). -/
def Obligations.DecodeOfEncodeIsTheInstruction : Prop :=
  ∀ (l : Layout) (i : Instr), l.wf = true → decodeWord l (encodeWith l i) = .ok i

/-- The other direction: a word that decodes to an instruction is that instruction's word on every bit the
instruction uses; the bits it does not use are ignored. Which layouts are admitted and which bits are
ignored is the model's reading (log 20, 21). Rests on what the spec marks as decided, D2, D11 (log 31). -/
def Obligations.DecodedWordAgreesWithEncodingOnUsedBits : Prop :=
  ∀ (l : Layout) (w : Word) (i : Instr), l.wf = true → decodeWord l w = .ok i →
    w &&& usedBits l i = encodeWith l i

/-- The opcode bytes with no instruction are exactly the 138 that R97 lists, and a word with one of them is
rejected by name whatever its other bits. Rests on what the spec marks as decided, D31, D36 (log 31). -/
def Obligations.IllegalOpcodeBytesAreThose138 : Prop :=
  (∀ (l : Layout) (w : Word),
    decodeWord l w = .error (.illegalOpcode w) ↔
      ∃ r ∈ [(0x00, 0x0f), (0x19, 0x1f), (0x29, 0x2f), (0x39, 0x3f), (0x49, 0x4f), (0x5e, 0x5f),
          (0x6e, 0x6f), (0x7c, 0x7f), (0x8c, 0x8f), (0x98, 0x9f), (0xa8, 0xaf), (0xb8, 0xbf),
          (0xc6, 0xff)],
        r.1 ≤ (opcodeField l w).toNat ∧ (opcodeField l w).toNat ≤ r.2) ∧
  (∀ (l : Layout) (w : Word) (e : DecodeError),
    decodeWord l w = .error e → e = .illegalOpcode w)

/-! ### The step -/

/-- A step runs the decoded instruction: where no interrupt is taken and the run is not over, and the bytes
at the pc are a word that decodes to `i`, the step is the meaning of `i` on the state after the timer's
move, which without a timer is the state itself. What a timer does at the boundary is a free value by the
model's choice (log 12). Rests on what the spec marks as decided, D25, D28 (log 31). -/
def Obligations.StepRunsTheDecodedInstruction : Prop :=
  ∀ (s : State) (w : Word) (i : Instr), s.takesTimer = false → s.atEnd = false →
    s.pc.toNat % 4 = 0 → s.word? s.pc.toNat = some w → decodeWord s.params.layout w = .ok i →
    step s = exec i s.timerMove ∧ (s.params.timerPresent = false → step s = exec i s)

/-- An instruction whose encoding stands at the pc, in the machine's byte order and layout, is the one the
step runs. Rests on what the spec marks as decided, D2, D3, D28 (log 31). -/
def Obligations.StepRunsTheEncodedInstruction : Prop :=
  ∀ (s : State) (i : Instr) (b : Nat → Byte), s.params.layout.wf = true →
    s.params.timerPresent = false → s.atEnd = false → s.pc.toNat % 4 = 0 →
    bytesOfWord s.params.byteOrder (encodeWith s.params.layout i) = [b 0, b 1, b 2, b 3] →
    (∀ k, k < 4 → s.byte? (s.pc.toNat + k) = some (b k)) →
    step s = exec i s

/-- The faults of the fetch and of the decoder: a pc that is no multiple of 4, four bytes not all in
`MemMap` and holding values, and an opcode byte that is none of the 118. Rests on what the spec marks as
decided, D4, D27, D29, D31 (log 31). -/
def Obligations.FetchAndDecodeFaults : Prop :=
  ∀ (s : State), s.takesTimer = false → s.atEnd = false →
    (s.pc.toNat % 4 ≠ 0 → step s = .fault (.fetchMisaligned s.pc)) ∧
    (s.pc.toNat % 4 = 0 → s.word? s.pc.toNat = none → step s = .fault (.fetchAccessFault s.pc)) ∧
    (∀ w, s.pc.toNat % 4 = 0 → s.word? s.pc.toNat = some w →
      decodeWord s.params.layout w = .error (.illegalOpcode w) →
      step s = .fault (.illegalInstruction w s.pc))

/-- The mode is user, kernel or interrupt when U, K and I are one-hot with that flag, and any other
combination of them holds no mode; with no mode, every one of the 118 instructions is refused. Rests on what
the spec marks as decided, D18 (log 31). -/
def Obligations.NoModeRefusesEveryInstruction : Prop :=
  (∀ (s : State),
    let u := s.cpsr.getLsbD s.params.cpsrPos.u.toNat
    let k := s.cpsr.getLsbD s.params.cpsrPos.k.toNat
    let i := s.cpsr.getLsbD s.params.cpsrPos.i.toNat
    (s.mode = some .user ↔ u = true ∧ k = false ∧ i = false) ∧
    (s.mode = some .kernel ↔ u = false ∧ k = true ∧ i = false) ∧
    (s.mode = some .interrupt ↔ u = false ∧ k = false ∧ i = true) ∧
    (s.mode = none ↔ ¬ (u = true ∧ k = false ∧ i = false) ∧
      ¬ (u = false ∧ k = true ∧ i = false) ∧ ¬ (u = false ∧ k = false ∧ i = true))) ∧
  (∀ (i : Instr) (s : State), s.mode = none → exec i s = .refused (.badMode s.pc))

/-- With a timer, in mode U or K with the interrupt pending or raised now, the step either takes the
interrupt, as the free value says (log 12): the CPSR is saved to ipsr, the mode becomes I, the pc is saved
to r14_i and goes to the vector, the pending bit is cleared and nothing else changes but the draw counter;
or does not take it, and it stays pending. The same under `BANKING` = none, where the registers it saves
into are the model's choice (log 11). Rests on what the spec marks as decided, D19, D25 (log 31). -/
def Obligations.TimerInterruptEntry : Prop :=
  ∀ (s : State), s.params.timerPresent = true →
    (s.timerPending = true ∨ Config.timerRaise s.draws = true) →
    (s.mode = some .user ∨ s.mode = some .kernel) → cpsrPosWf s.params.cpsrPos = true →
    if Config.timerTake s.draws = true then
      ∃ t, step s = .next t ∧ t.ipsr = s.cpsr ∧ t.mode = some .interrupt ∧
        SameStatusBut s.cpsr t.cpsr [s.params.cpsrPos.u, s.params.cpsrPos.k, s.params.cpsrPos.i] ∧
        t.r14i = s.pc ∧ t.pc = s.params.tmrVector ∧ t.timerPending = false ∧
        (∀ r, r ≠ .pc → r ≠ .cpsr → r ≠ .ipsr → r ≠ .r14i → t.get r = s.get r) ∧
        (∀ a, t.byte? a = s.byte? a) ∧ t.ioHistory = s.ioHistory ∧ t.params = s.params
    else
      s.takesTimer = false ∧ s.timerMove.timerPending = true

/-- In interrupt mode, and without a timer, no interrupt is taken; and the timer's move changes nothing but
the pending bit, which it can only set, and the draw counter. When the timer raises is a free value by the
model's choice (log 12). Rests on what the spec marks as decided, D25 (log 31). -/
def Obligations.TimerMovesOnlyItsPendingBit : Prop :=
  ∀ (s : State),
    (s.mode = some .interrupt ∨ s.params.timerPresent = false → s.takesTimer = false) ∧
    (∀ r, s.timerMove.get r = s.get r) ∧ (∀ a, s.timerMove.byte? a = s.byte? a) ∧
    s.timerMove.params = s.params ∧ s.timerMove.ioHistory = s.ioHistory ∧
    (s.timerPending = true → s.timerMove.timerPending = true) ∧
    (s.params.timerPresent = false → s.timerMove = s)

/-- A run is over where the pc is `END_PC`, with a timer only in the mode the launch started in, and where
no interrupt is taken; a run that is over stays as it is, no step changes the state (the model's choice, log
13). Rests on what the spec marks as decided, D25, D28 (log 31). -/
def Obligations.FinalStateStays : Prop :=
  (∀ (s : State),
    (s.atEnd = true ↔ s.params.endPc = some s.pc ∧
      (s.params.timerPresent = false ∨ s.mode = some s.params.launchMode)) ∧
    (Final s ↔ s.atEnd = true ∧ s.takesTimer = false)) ∧
  (∀ (s : State) (k : Nat), Final s → run k s = .next s)

/-! ### Load and store -/

/-- `ldr` in each of its nine address forms: the word at the effective address, the base update and the
frame. Rests on what the spec marks as decided, D3, D4, D10, D29 (log 31). -/
def Obligations.LoadWordResult : Prop :=
  ∀ (s : State) (m : Mode) (rd : RegNum) (form : AddrForm) (v : Word),
    s.mode = some m → rd ≠ 15#4 → form.writebackBase ≠ some 15#4 → form.writebackBase ≠ some rd →
    (s.effectiveAddress m form).toNat % 4 = 0 →
    s.word? (s.effectiveAddress m form).toNat = some v →
    ∃ t, exec (ldrOf rd form) s = .next t ∧ t.readReg m rd = v ∧
      (∀ b u, s.baseUpdate m form = some (b, u) → t.readReg m b = u) ∧ t.pc = s.pc + 4#32 ∧
      OnlyChanges s t (fun r => pcAnd s m rd r ∨ pcAndBase s m form r) noByte

/-- `ldb` in each of its nine address forms: the byte at the effective address, extended as `LDB_EXT` says,
the base update and the frame. Rests on what the spec marks as decided, D9, D10, D29 (log 31). -/
def Obligations.LoadByteResult : Prop :=
  ∀ (s : State) (m : Mode) (rd : RegNum) (form : AddrForm) (b : Byte),
    s.mode = some m → rd ≠ 15#4 → form.writebackBase ≠ some 15#4 → form.writebackBase ≠ some rd →
    s.byte? (s.effectiveAddress m form).toNat = some b →
    ∃ t, exec (ldbOf rd form) s = .next t ∧
      (s.params.ldbExt = .zero → (t.readReg m rd).toNat = b.toNat) ∧
      (s.params.ldbExt = .sign → (t.readReg m rd).toInt = b.toInt) ∧
      (∀ b u, s.baseUpdate m form = some (b, u) → t.readReg m b = u) ∧ t.pc = s.pc + 4#32 ∧
      OnlyChanges s t (fun r => pcAnd s m rd r ∨ pcAndBase s m form r) noByte

/-- `str` in each of its nine address forms: the word of rd, as it was before the instruction, at the
effective address, the base update, and no other byte or register changed. Rests on what the spec marks as
decided, D3, D4, D10, D29 (log 31). -/
def Obligations.StoreWordResult : Prop :=
  ∀ (s : State) (m : Mode) (rd : RegNum) (form : AddrForm),
    s.mode = some m → form.writebackBase ≠ some 15#4 → form.writebackBase ≠ some rd →
    (s.effectiveAddress m form).toNat % 4 = 0 →
    wordInMap s.params.memMap (s.effectiveAddress m form).toNat = true →
    ∃ t, exec (strOf rd form) s = .next t ∧
      t.word? (s.effectiveAddress m form).toNat = some (s.readReg m rd) ∧
      (∀ b u, s.baseUpdate m form = some (b, u) → t.readReg m b = u) ∧ t.pc = s.pc + 4#32 ∧
      OnlyChanges s t (pcAndBase s m form) (wordAt (s.effectiveAddress m form))

/-- `stb` in each of its nine address forms: the low byte of rd at the effective address, the base update,
and no other byte or register changed. Rests on what the spec marks as decided, D9, D10, D29 (log 31). -/
def Obligations.StoreByteResult : Prop :=
  ∀ (s : State) (m : Mode) (rd : RegNum) (form : AddrForm),
    s.mode = some m → form.writebackBase ≠ some 15#4 → form.writebackBase ≠ some rd →
    inMap s.params.memMap (s.effectiveAddress m form).toNat = true →
    ∃ t, exec (stbOf rd form) s = .next t ∧
      t.byte? (s.effectiveAddress m form).toNat = some ((s.readReg m rd).extractLsb' 0 8) ∧
      (∀ b u, s.baseUpdate m form = some (b, u) → t.readReg m b = u) ∧ t.pc = s.pc + 4#32 ∧
      OnlyChanges s t (pcAndBase s m form) (byteAt (s.effectiveAddress m form))

/-- `ldr` and `str` at an effective address that is no multiple of 4 fault, in every address form. Rests on
what the spec marks as decided, D4 (log 31). -/
def Obligations.MisalignedWordAccessFaults : Prop :=
  ∀ (s : State) (m : Mode) (rd : RegNum) (form : AddrForm),
    s.mode = some m → form.writebackBase ≠ some 15#4 → form.writebackBase ≠ some rd →
    (s.effectiveAddress m form).toNat % 4 ≠ 0 →
    exec (strOf rd form) s = .fault (.misaligned (s.effectiveAddress m form) s.pc) ∧
    (rd ≠ 15#4 →
      exec (ldrOf rd form) s = .fault (.misaligned (s.effectiveAddress m form) s.pc))

/-- A load of bytes that are not all in `MemMap` and holding values, and a store to addresses not all in
`MemMap`, fault. Rests on what the spec marks as decided, D27, D29 (log 31). -/
def Obligations.AccessOutsideMemoryFaults : Prop :=
  ∀ (s : State) (m : Mode) (rd : RegNum) (form : AddrForm),
    s.mode = some m → form.writebackBase ≠ some 15#4 → form.writebackBase ≠ some rd →
    let ea := s.effectiveAddress m form
    (inMap s.params.memMap ea.toNat = false →
      exec (stbOf rd form) s = .fault (.accessFault ea s.pc)) ∧
    (ea.toNat % 4 = 0 → wordInMap s.params.memMap ea.toNat = false →
      exec (strOf rd form) s = .fault (.accessFault ea s.pc)) ∧
    (rd ≠ 15#4 → s.byte? ea.toNat = none →
      exec (ldbOf rd form) s = .fault (.accessFault ea s.pc)) ∧
    (rd ≠ 15#4 → ea.toNat % 4 = 0 → s.word? ea.toNat = none →
      exec (ldrOf rd form) s = .fault (.accessFault ea s.pc))

/-- The effective address of each address form, and what each does to its base register, modulo 2^32. That
the offset is signed under either `IMM16_EXT` is the model's reading (log 28). Rests on what the spec marks
as decided, D7, D32 (log 31). -/
def Obligations.AddressFormsGiveTheirAddresses : Prop :=
  ∀ (s : State) (m : Mode) (rm rn : RegNum) (imm : BitVec 16) (addr : BitVec 20),
    let x := s.readReg m
    let off : Int := imm.toInt
    (s.effectiveAddress m (.abs addr)).toNat = addr.toNat ∧
    s.effectiveAddress m (.reg rm) = x rm ∧
    s.effectiveAddress m (.off rm imm) = BitVec.ofInt 32 ((x rm).toNat + off) ∧
    s.effectiveAddress m (.idx rm rn) = BitVec.ofNat 32 ((x rm).toNat + (x rn).toNat) ∧
    s.effectiveAddress m (.preOff rm imm) = BitVec.ofInt 32 ((x rm).toNat + off) ∧
    s.effectiveAddress m (.preIdx rm rn) = BitVec.ofNat 32 ((x rm).toNat + (x rn).toNat) ∧
    s.effectiveAddress m (.postOff rm imm) = x rm ∧
    s.effectiveAddress m (.postIdx rm rn) = x rm ∧
    s.baseUpdate m (.abs addr) = none ∧ s.baseUpdate m (.reg rm) = none ∧
    s.baseUpdate m (.off rm imm) = none ∧ s.baseUpdate m (.idx rm rn) = none ∧
    s.baseUpdate m (.preOff rm imm) = some (rm, BitVec.ofInt 32 ((x rm).toNat + off)) ∧
    s.baseUpdate m (.preIdx rm rn) = some (rm, BitVec.ofNat 32 ((x rm).toNat + (x rn).toNat)) ∧
    s.baseUpdate m (.postOff rm imm) = some (rm, BitVec.ofInt 32 ((x rm).toNat + off)) ∧
    s.baseUpdate m (.postIdx rm rn) = some (rm, BitVec.ofNat 32 ((x rm).toNat + (x rn).toNat))

/-- Address form 8 writes no register and adds the shifted index to rm: under the default `IndexShift` a
count of 0 or more multiplies the index by 2 to the count modulo 32 and a negative one divides it, and under
another `IndexShift` it is that function's value (log 17). Rests on what the spec marks as decided, D8, D16
(log 31). -/
def Obligations.ScaledIndexShiftsTheIndex : Prop :=
  ∀ (s : State) (m : Mode) (rm rn : RegNum) (imm : BitVec 12),
    let base := s.readReg m rm
    let index := s.readReg m rn
    let count := imm.toInt.natAbs % 32
    let ea := s.effectiveAddress m (.scaled rm rn imm)
    s.baseUpdate m (.scaled rm rn imm) = none ∧
    (s.params.indexShift = .standard → 0 ≤ imm.toInt →
      ea = BitVec.ofNat 32 (base.toNat + index.toNat * 2 ^ count)) ∧
    (s.params.indexShift = .standard → imm.toInt < 0 →
      ea = BitVec.ofNat 32 (base.toNat + index.toNat / 2 ^ count)) ∧
    (s.params.indexShift = .given → ea = base + Config.indexShift index imm)

/-- After a store of a word, a load from the same address gives the word, a fetch from it gives the word,
and each of its bytes is the one the byte order puts there; every other byte is as before. Rests on what the
spec marks as decided, D3, D29, D30 (log 31). -/
def Obligations.LoadAndFetchAfterStore : Prop :=
  ∀ (s t : State) (a v : Word), s.storeWord a v = .ok t →
    t.loadWord a = .ok v ∧ (t.pc = a → t.fetch = .ok v) ∧
    (∀ k, k < 4 → s.params.byteOrder = .little →
      t.byte? (a.toNat + k) = some (v.extractLsb' (8 * k) 8)) ∧
    (∀ k, k < 4 → s.params.byteOrder = .big →
      t.byte? (a.toNat + k) = some (v.extractLsb' (8 * (3 - k)) 8)) ∧
    (∀ x, ¬ wordAt a x → t.byte? x = s.byte? x)

/-! ### Arithmetic and logic -/

/-- `add` and `sub` with either op2, modulo 2^32, the same for signed and unsigned operands; no flag is
written, as no register but rd and the pc is; with their opcodes and example words. -/
def Obligations.AddSubResult : Prop :=
  (∀ (s : State) (m : Mode) (rd rm : RegNum) (o : ArithOperand), s.mode = some m → rd ≠ 15#4 →
    let a := s.readReg m rm
    let b := s.arithOp2 m o
    ∃ sum difference : Word, WritesReg (arithOf .add rd rm o) s m rd sum ∧
      WritesReg (arithOf .sub rd rm o) s m rd difference ∧
      sum = BitVec.ofNat 32 (a.toNat + b.toNat) ∧ sum = BitVec.ofInt 32 (a.toInt + b.toInt) ∧
      difference = BitVec.ofInt 32 ((a.toNat : Int) - b.toNat) ∧
      difference = BitVec.ofInt 32 (a.toInt - b.toInt)) ∧
  (∀ (rd rm rn : RegNum) (imm : BitVec 16),
    opcodeField defaultLayout (encode (.addReg rd rm rn)) = 0x50#8 ∧
    opcodeField defaultLayout (encode (.addImm rd rm imm)) = 0x60#8 ∧
    opcodeField defaultLayout (encode (.subReg rd rm rn)) = 0x51#8 ∧
    opcodeField defaultLayout (encode (.subImm rd rm imm)) = 0x61#8) ∧
  encode (.addImm 0#4 0#4 1#16) = 0x60000001#32 ∧
  encode (.addReg 3#4 1#4 2#4) = 0x50312000#32 ∧
  encode (.subReg 3#4 1#4 2#4) = 0x51312000#32 ∧
  encode (.subImm 0#4 0#4 0xffff#16) = 0x6100ffff#32

/-- `mul` with either op2: the low 32 bits of the product, the same for signed and unsigned operands; no
flag is written. Rests on what the spec marks as decided, D14 (log 31). -/
def Obligations.MultiplyResult : Prop :=
  ∀ (s : State) (m : Mode) (rd rm : RegNum) (o : ArithOperand), s.mode = some m → rd ≠ 15#4 →
    let a := s.readReg m rm
    let b := s.arithOp2 m o
    ∃ product : Word, WritesReg (arithOf .mul rd rm o) s m rd product ∧
      product.toNat = a.toNat * b.toNat % 2 ^ 32 ∧ product = BitVec.ofInt 32 (a.toInt * b.toInt)

/-- The values of the operands. Register numbers: 0 to 12 name one copy in every mode; 13 and 14 name the
user bank in mode U, and under `BANKING` = none in every mode, r13_k and r14_k in mode K and r13_i and r14_i
in mode I; 15 reads pc + `PC_READ_OFFSET`. op2 of an arithmetic instruction: a register, or imm16 extended
as `IMM16_EXT` says; of a move, compare or shift, a register or the signed imm20; of `mva`, a register or
the unsigned imm20. The target of each branch form: the unsigned 20-bit address, the register, or the
register plus the signed imm20 modulo 2^32. Rests on what the spec marks as decided, D5, D7, D11, D17, D19
(log 31). -/
def Obligations.OperandValues : Prop :=
  (∀ (s : State) (b : Banking) (m : Mode),
    (∀ n : Fin 15, n.val < 13 → home b m (BitVec.ofNat 4 n.val) = .gpr n) ∧
    (∀ n : Fin 15, home b .user (BitVec.ofNat 4 n.val) = .gpr n ∧
      home .none m (BitVec.ofNat 4 n.val) = .gpr n) ∧
    home .banked .kernel 13#4 = .r13k ∧ home .banked .kernel 14#4 = .r14k ∧
    home .banked .interrupt 13#4 = .r13i ∧ home .banked .interrupt 14#4 = .r14i ∧
    (∀ r : RegNum, r ≠ 15#4 → s.readReg m r = s.get (home s.params.banking m r)) ∧
    s.readReg m 15#4 = s.pc + s.params.pcReadOffset ∧ (∀ n : Fin 15, s.get (.gpr n) = s.regs[n]) ∧
    s.get .r13k = s.r13k ∧ s.get .r14k = s.r14k ∧ s.get .r13i = s.r13i ∧ s.get .r14i = s.r14i) ∧
  ∀ (s : State) (m : Mode) (r : RegNum) (imm16 : BitVec 16) (imm20 : BitVec 20),
    s.arithOp2 m (.reg r) = s.readReg m r ∧
    (s.params.arithImm16Ext = .sign → (s.arithOp2 m (.imm imm16)).toInt = imm16.toInt) ∧
    (s.params.arithImm16Ext = .zero → (s.arithOp2 m (.imm imm16)).toNat = imm16.toNat) ∧
    s.moveOp2 m (.reg r) = s.readReg m r ∧ (s.moveOp2 m (.imm imm20)).toInt = imm20.toInt ∧
    s.mvaOp2 m (.reg r) = s.readReg m r ∧ (s.mvaOp2 m (.imm imm20)).toNat = imm20.toNat ∧
    (s.target m (.abs imm20)).toNat = imm20.toNat ∧ s.target m (.ind r) = s.readReg m r ∧
    s.target m (.rel r imm20) = BitVec.ofInt 32 ((s.readReg m r).toNat + imm20.toInt)

/-- `and`, `orr` and `eor` with either op2, bit by bit; an immediate op2 under `IMM16_EXT` = sign is the
sign-extended imm16, and `eor` of a register with itself gives 0; with their opcodes and example words. -/
def Obligations.LogicResult : Prop :=
  (∀ (s : State) (m : Mode) (rd rm : RegNum) (o : ArithOperand), s.mode = some m → rd ≠ 15#4 →
    ∃ vAnd vOrr vEor : Word,
      WritesReg (arithOf .and rd rm o) s m rd vAnd ∧ WritesReg (arithOf .orr rd rm o) s m rd vOrr ∧
      WritesReg (arithOf .eor rd rm o) s m rd vEor ∧ (o = .reg rm → vEor = 0#32) ∧
      ∀ i, i < 32 →
        let a := (s.readReg m rm).getLsbD i
        let b := (s.arithOp2 m o).getLsbD i
        vAnd.getLsbD i = (a && b) ∧ vOrr.getLsbD i = (a || b) ∧ vEor.getLsbD i = (a ^^ b) ∧
        (s.params.arithImm16Ext = .sign →
          ∀ imm, o = .imm imm → b = if i < 16 then imm.getLsbD i else imm.getLsbD 15)) ∧
  (∀ (rd rm rn : RegNum) (imm : BitVec 16),
    opcodeField defaultLayout (encode (.andReg rd rm rn)) = 0x55#8 ∧
    opcodeField defaultLayout (encode (.andImm rd rm imm)) = 0x65#8 ∧
    opcodeField defaultLayout (encode (.orrReg rd rm rn)) = 0x56#8 ∧
    opcodeField defaultLayout (encode (.orrImm rd rm imm)) = 0x66#8 ∧
    opcodeField defaultLayout (encode (.eorReg rd rm rn)) = 0x57#8 ∧
    opcodeField defaultLayout (encode (.eorImm rd rm imm)) = 0x67#8) ∧
  encode (.andImm 0#4 0#4 0xff#16) = 0x650000ff#32 ∧
  encode (.andImm 0#4 0#4 0xffff#16) = 0x6500ffff#32 ∧
  encode (.andReg 3#4 1#4 2#4) = 0x55312000#32 ∧
  encode (.orrReg 3#4 1#4 2#4) = 0x56312000#32 ∧
  encode (.eorReg 3#4 1#4 2#4) = 0x57312000#32

/-- `adc` adds the C flag; `sbc` under `SBC_BORROW` = arm is a + ~b + C, and under plain subtracts C.
Neither writes a flag. Rests on what the spec marks as decided, D13 (log 31). -/
def Obligations.CarryArithmeticResult : Prop :=
  ∀ (s : State) (m : Mode) (rd rm : RegNum) (o : ArithOperand), s.mode = some m → rd ≠ 15#4 →
    let a := s.readReg m rm
    let b := s.arithOp2 m o
    let c : Nat := if s.flag s.params.cpsrPos.c then 1 else 0
    WritesReg (arithOf .adc rd rm o) s m rd (BitVec.ofNat 32 (a.toNat + b.toNat + c)) ∧
    (s.params.sbcBorrow = .arm →
      WritesReg (arithOf .sbc rd rm o) s m rd (a + ~~~b + BitVec.ofNat 32 c)) ∧
    (s.params.sbcBorrow = .plain →
      WritesReg (arithOf .sbc rd rm o) s m rd (BitVec.ofInt 32 (a.toInt - b.toInt - c)))

/-- `div` with an op2 that is not 0 writes `DivS`, which by default is the signed quotient truncated toward
zero; the one quotient that does not fit, -2^31 by -1, is 0x80000000 (a value the spec marks assumed, log
17). Rests on what the spec marks as decided, D14 (log 31). -/
def Obligations.DivideResult : Prop :=
  ∀ (s : State) (m : Mode) (rd rm : RegNum) (o : ArithOperand), s.mode = some m → rd ≠ 15#4 →
    s.arithOp2 m o ≠ 0#32 →
    let a := s.readReg m rm
    let b := s.arithOp2 m o
    ∃ q : Word, WritesReg (arithOf .div rd rm o) s m rd q ∧
      (s.params.divS = .standard → ¬ (a = 0x80000000#32 ∧ b = 0xffffffff#32) →
        q.toInt = a.toInt.tdiv b.toInt) ∧
      (s.params.divS = .standard → a = 0x80000000#32 → b = 0xffffffff#32 → q = 0x80000000#32) ∧
      (s.params.divS = .given → q = Config.divS a b)

/-- `mod` with an op2 that is not 0 writes a - DivS(a, b) * b, which by default is the remainder with the
sign of the dividend, also for -2^31 by -1. That another `DivS` may be given is the model's choice of a
parameter (log 17). Rests on what the spec marks as decided, D14 (log 31). -/
def Obligations.ModuloResult : Prop :=
  ∀ (s : State) (m : Mode) (rd rm : RegNum) (o : ArithOperand), s.mode = some m → rd ≠ 15#4 →
    s.arithOp2 m o ≠ 0#32 →
    let a := s.readReg m rm
    let b := s.arithOp2 m o
    ∃ r : Word, WritesReg (arithOf .mod rd rm o) s m rd r ∧
      (s.params.divS = .standard → r.toInt = a.toInt.tmod b.toInt) ∧
      (s.params.divS = .given → r = a - Config.divS a b * b)

/-- `div` and `mod` by 0: under `DIV0` = fault they fault; under `DIV0` = draw they write the next free
value (log 16), and nothing but rd, the pc and the draw counter changes. Rests on what the spec marks as
decided, D14 (log 31). -/
def Obligations.DivideByZeroFaultsOrDraws : Prop :=
  ∀ (s : State) (m : Mode) (op : ArithOp) (rd rm : RegNum) (o : ArithOperand),
    op = .div ∨ op = .mod → s.mode = some m → rd ≠ 15#4 → s.arithOp2 m o = 0#32 →
    (s.params.div0 = .fault → exec (arithOf op rd rm o) s = .fault (.divideByZero s.pc)) ∧
    (s.params.div0 = .draw →
      ∃ t, exec (arithOf op rd rm o) s = .next t ∧
        t.readReg m rd = Config.divZeroDraw s.draws ∧ t.pc = s.pc + 4#32 ∧
        t.draws = s.draws + 1 ∧
        OnlyChanges s { t with draws := s.draws } (pcAnd s m rd) noByte)

/-- The floating-point arithmetic with a register op2: the uninterpreted function of the two patterns, no
flag and no fault. The functions are opaque by the model's choice (log 18). Rests on what the spec marks as
decided, D15 (log 31). -/
def Obligations.FloatArithmeticResult : Prop :=
  ∀ (s : State) (m : Mode) (rd rm rn : RegNum), s.mode = some m → rd ≠ 15#4 →
    let a := s.readReg m rm
    let b := s.readReg m rn
    WritesReg (.adfReg rd rm rn) s m rd (Config.fAdd a b) ∧
    WritesReg (.sufReg rd rm rn) s m rd (Config.fSub a b) ∧
    WritesReg (.mufReg rd rm rn) s m rd (Config.fMul a b) ∧
    WritesReg (.difReg rd rm rn) s m rd (Config.fDiv a b)

/-- The six floating-point opcodes with an immediate op2 are refused: 0x6a to 0x6d, 0x89 and 0x8b. A
destination of 15 is reported first (R249, log 9). Rests on what the spec marks as decided, D37, D38 (log
31). -/
def Obligations.FloatImmediateIsRefused : Prop :=
  ∀ (i : Instr) (s : State) (m : Mode), i.shape.floatImmediate = true → s.mode = some m →
    exec i s = if i.shape.writesPc then .refused (.writeToPc s.pc)
      else .refused (.floatImmediate s.pc)

/-! ### Move, compare, shift -/

/-- `mov`, `mva` and `one`: `mov` sign-extends its immediate, `mva` zero-extends it, and `one` inverts every
bit of op2; no flag is written; with their opcodes and example words. The register form of `mva` is what the
spec marks as its own derivation (R171 from R182). Rests on what the spec marks as decided, D11 (log 31). -/
def Obligations.MoveResult : Prop :=
  (∀ (s : State) (m : Mode) (rd rm : RegNum) (imm : BitVec 20), s.mode = some m → rd ≠ 15#4 →
    ∃ vReg vImm : Word,
      WritesReg (.movReg rd rm) s m rd (s.readReg m rm) ∧
      WritesReg (.movImm rd imm) s m rd (BitVec.ofInt 32 imm.toInt) ∧
      WritesReg (.mvaReg rd rm) s m rd (s.readReg m rm) ∧
      WritesReg (.mvaImm rd imm) s m rd (BitVec.ofNat 32 imm.toNat) ∧
      WritesReg (.oneReg rd rm) s m rd vReg ∧ WritesReg (.oneImm rd imm) s m rd vImm ∧
      ∀ i, i < 32 → vReg.getLsbD i = !(s.readReg m rm).getLsbD i ∧
        vImm.getLsbD i = !(BitVec.ofInt 32 imm.toInt).getLsbD i) ∧
  (∀ (rd rm : RegNum) (imm : BitVec 20),
    opcodeField defaultLayout (encode (.movReg rd rm)) = 0x70#8 ∧
    opcodeField defaultLayout (encode (.movImm rd imm)) = 0x80#8 ∧
    opcodeField defaultLayout (encode (.mvaReg rd rm)) = 0x71#8 ∧
    opcodeField defaultLayout (encode (.mvaImm rd imm)) = 0x81#8 ∧
    opcodeField defaultLayout (encode (.oneReg rd rm)) = 0x78#8 ∧
    opcodeField defaultLayout (encode (.oneImm rd imm)) = 0x88#8) ∧
  encode (.movImm 1#4 0xfffff#20) = 0x801fffff#32 ∧ encode (.movReg 0#4 0#4) = 0x70000000#32 ∧
  encode (.mvaImm 1#4 0xfffff#20) = 0x811fffff#32 ∧ encode (.oneImm 1#4 0#20) = 0x88100000#32 ∧
  encode (.oneReg 1#4 2#4) = 0x78120000#32

/-- `shf` with either op2: a positive op2 shifts left and a negative one right, by its magnitude modulo 32,
zeros entering. Rests on what the spec marks as decided, D16 (log 31). -/
def Obligations.ShiftLogicalResult : Prop :=
  ∀ (s : State) (m : Mode) (rd : RegNum) (o : MoveOperand), s.mode = some m → rd ≠ 15#4 →
    let old := s.readReg m rd
    let count : Int := (s.moveOp2 m o).toInt
    let n := count.natAbs % 32
    ∃ v : Word, WritesReg (moveOf .shf rd o) s m rd v ∧
      ∀ i, i < 32 →
        (0 ≤ count → v.getLsbD i = (decide (n ≤ i) && old.getLsbD (i - n))) ∧
        (count < 0 → v.getLsbD i = (decide (i + n < 32) && old.getLsbD (i + n)))

/-- `sha` with either op2: a left shift fills with the old bit 0, a right shift with the old bit 31. Rests
on what the spec marks as decided, D16 (log 31). -/
def Obligations.ShiftArithmeticResult : Prop :=
  ∀ (s : State) (m : Mode) (rd : RegNum) (o : MoveOperand), s.mode = some m → rd ≠ 15#4 →
    let old := s.readReg m rd
    let count : Int := (s.moveOp2 m o).toInt
    let n := count.natAbs % 32
    ∃ v : Word, WritesReg (moveOf .sha rd o) s m rd v ∧
      ∀ i, i < 32 →
        (0 ≤ count → v.getLsbD i = if n ≤ i then old.getLsbD (i - n) else old.getLsbD 0) ∧
        (count < 0 → v.getLsbD i = if i + n < 32 then old.getLsbD (i + n) else old.getLsbD 31)

/-- `rot` with either op2: a left rotation by the magnitude modulo 32 for a positive op2, a right one for a
negative op2, so that a right rotation by n is a left rotation by 32 - n. Rests on what the spec marks as
decided, D16 (log 31). -/
def Obligations.RotateResult : Prop :=
  ∀ (s : State) (m : Mode) (rd : RegNum) (o : MoveOperand), s.mode = some m → rd ≠ 15#4 →
    let old := s.readReg m rd
    let count : Int := (s.moveOp2 m o).toInt
    let n := count.natAbs % 32
    ∃ v : Word, WritesReg (moveOf .rot rd o) s m rd v ∧
      (0 ≤ count → v = old.rotateLeft n) ∧ (count < 0 → v = old.rotateLeft (32 - n)) ∧
      ∀ i, i < 32 →
        (0 ≤ count → v.getLsbD ((i + n) % 32) = old.getLsbD i) ∧
        (count < 0 → v.getLsbD i = old.getLsbD ((i + n) % 32))

/-- `fti` with a register and `itf` with either op2: the uninterpreted conversions. The functions are opaque
by the model's choice (log 18). Rests on what the spec marks as decided, D15 (log 31). -/
def Obligations.FloatConversionResult : Prop :=
  ∀ (s : State) (m : Mode) (rd rm : RegNum) (imm : BitVec 20), s.mode = some m → rd ≠ 15#4 →
    WritesReg (.ftiReg rd rm) s m rd (Config.fToI (s.readReg m rm)) ∧
    WritesReg (.itfReg rd rm) s m rd (Config.iToF (s.readReg m rm)) ∧
    WritesReg (.itfImm rd imm) s m rd (Config.iToF (BitVec.ofInt 32 imm.toInt))

/-- `cmp` with either op2: N and Z of the difference; C and V keep their values under `CMP_WRITES_CV` =
false and are the ARM compare's under true; no other bit and no register changes. Rests on what the spec
marks as decided, D12 (log 31). -/
def Obligations.CompareResult : Prop :=
  ∀ (s : State) (m : Mode) (rd : RegNum) (o : MoveOperand), s.mode = some m →
    cpsrPosWf s.params.cpsrPos = true →
    let a := s.readReg m rd
    let b := s.moveOp2 m o
    let p := s.params.cpsrPos
    ∃ psr : Word, WritesStatus (moveOf .cmp rd o) s psr ∧
      statusBit psr p.n = (a - b).getLsbD 31 ∧ statusBit psr p.z = decide (a = b) ∧
      SameStatusBut s.cpsr psr
        (if s.params.cmpWritesCV then [p.n, p.z, p.c, p.v] else [p.n, p.z]) ∧
      (s.params.cmpWritesCV = true →
        statusBit psr p.c = decide (b.toNat ≤ a.toNat) ∧
        (statusBit psr p.v = true ↔ (a - b).toInt ≠ a.toInt - b.toInt))

/-- `tst` and `teq` with either op2: N and Z of the and, or of the exclusive or; Z of `teq` is equality
and N the difference of the sign bits; no other bit, so neither C nor V under any `CMP_WRITES_CV`, and no
register changes; with their opcodes and example words. -/
def Obligations.TestResult : Prop :=
  (∀ (s : State) (m : Mode) (rd : RegNum) (o : MoveOperand), s.mode = some m →
    cpsrPosWf s.params.cpsrPos = true →
    let a := s.readReg m rd
    let b := s.moveOp2 m o
    let p := s.params.cpsrPos
    (∃ psr : Word, WritesStatus (moveOf .tst rd o) s psr ∧
      statusBit psr p.n = (a.getLsbD 31 && b.getLsbD 31) ∧
      statusBit psr p.z = decide (a &&& b = 0#32) ∧ SameStatusBut s.cpsr psr [p.n, p.z]) ∧
    (∃ psr : Word, WritesStatus (moveOf .teq rd o) s psr ∧
      statusBit psr p.n = (a.getLsbD 31 != b.getLsbD 31) ∧
      statusBit psr p.z = decide (a = b) ∧ SameStatusBut s.cpsr psr [p.n, p.z])) ∧
  (∀ (rd rm : RegNum) (imm : BitVec 20),
    opcodeField defaultLayout (encode (.tstReg rd rm)) = 0x73#8 ∧
    opcodeField defaultLayout (encode (.tstImm rd imm)) = 0x83#8 ∧
    opcodeField defaultLayout (encode (.teqReg rd rm)) = 0x74#8 ∧
    opcodeField defaultLayout (encode (.teqImm rd imm)) = 0x84#8) ∧
  encode (.tstImm 1#4 1#20) = 0x83100001#32 ∧ encode (.teqReg 1#4 2#4) = 0x74120000#32

/-- `cmf` with a register: N and Z are the uninterpreted comparison's; no other bit and no register changes.
The function is opaque by the model's choice (log 18). Rests on what the spec marks as decided, D15 (log
31). -/
def Obligations.FloatCompareResult : Prop :=
  ∀ (s : State) (m : Mode) (rd rm : RegNum), s.mode = some m → cpsrPosWf s.params.cpsrPos = true →
    let p := s.params.cpsrPos
    ∃ psr : Word, WritesStatus (.cmfReg rd rm) s psr ∧
      (statusBit psr p.n, statusBit psr p.z) = Config.fCmp (s.readReg m rd) (s.readReg m rm) ∧
      SameStatusBut s.cpsr psr [p.n, p.z]

/-! ### Branches -/

/-- The seven branches without link, in each target form: to the target when the condition of the table
holds, else to the next instruction; nothing but the pc changes; with their opcodes and example words. -/
def Obligations.BranchResult : Prop :=
  (∀ (s : State) (m : Mode) (d : Dest), s.mode = some m →
    let n := s.flag s.params.cpsrPos.n
    let z := s.flag s.params.cpsrPos.z
    let v := s.flag s.params.cpsrPos.v
    let taken := s.target m d
    let notTaken := s.pc + 4#32
    Jumps (branchOf .bal d) s taken ∧
    Jumps (branchOf .beq d) s (if z = true then taken else notTaken) ∧
    Jumps (branchOf .bne d) s (if z = false then taken else notTaken) ∧
    Jumps (branchOf .blt d) s (if n ≠ v then taken else notTaken) ∧
    Jumps (branchOf .ble d) s (if z = true ∨ n ≠ v then taken else notTaken) ∧
    Jumps (branchOf .bgt d) s (if z = false ∧ n = v then taken else notTaken) ∧
    Jumps (branchOf .bge d) s (if n = v then taken else notTaken)) ∧
  (∀ (addr imm : BitVec 20) (rd : RegNum), ∀ row ∈
      [(BranchOp.bal, 0#8), (.beq, 1#8), (.bne, 2#8), (.blt, 3#8), (.ble, 4#8), (.bgt, 5#8),
        (.bge, 6#8)],
    opcodeField defaultLayout (encode (branchOf row.1 (.abs addr))) = 0x90#8 + row.2 ∧
    opcodeField defaultLayout (encode (branchOf row.1 (.ind rd))) = 0xa0#8 + row.2 ∧
    opcodeField defaultLayout (encode (branchOf row.1 (.rel rd imm))) = 0xb0#8 + row.2) ∧
  encode (.balAbs 0x218#20) = 0x90000218#32 ∧ encode (.balInd 14#4) = 0xa0e00000#32 ∧
  encode (.beqAbs 0x214#20) = 0x91000214#32 ∧ encode (.bneAbs 0x208#20) = 0x92000208#32 ∧
  encode (.bltAbs 0x300#20) = 0x93000300#32 ∧ encode (.bleAbs 0x300#20) = 0x94000300#32 ∧
  encode (.bgtAbs 0x300#20) = 0x95000300#32 ∧ encode (.bgeAbs 0x300#20) = 0x96000300#32

/-- `blr` in each target form: register 14 of the current mode receives pc + 4 and the pc the target,
computed from the registers before the link is written; nothing else changes. Rests on what the spec marks
as decided, D17, D19 (log 31). -/
def Obligations.BranchLinkResult : Prop :=
  ∀ (s : State) (m : Mode) (d : Dest), s.mode = some m →
    ∃ t, exec (branchOf .blr d) s = .next t ∧ t.readReg m 14#4 = s.pc + 4#32 ∧
      t.pc = s.target m d ∧ OnlyChanges s t (pcAnd s m 14#4) noByte

/-! ### Kernel mode -/

/-- `ker` in user mode with the OS flag set, under banking: the call number in r0, the CPSR saved, the
return address in r14_k, kernel mode, the pc at `OS_BASE`, and nothing else changed. Rests on what the spec
marks as decided, D19, D20, D34 (log 31). -/
def Obligations.KerEntersTheKernel : Prop :=
  ∀ (s : State) (imm : BitVec 20), s.mode = some .user → s.params.banking = .banked →
    s.flag s.params.cpsrPos.os = true → cpsrPosWf s.params.cpsrPos = true →
    ∃ t, exec (.ker imm) s = .next t ∧
      (s.params.kerImmExt = .zero → (t.get (.gpr 0)).toNat = imm.toNat) ∧
      (s.params.kerImmExt = .sign → (t.get (.gpr 0)).toInt = imm.toInt) ∧
      t.kpsr = s.cpsr ∧ t.mode = some .kernel ∧
      SameStatusBut s.cpsr t.cpsr [s.params.cpsrPos.u, s.params.cpsrPos.k, s.params.cpsrPos.i] ∧
      t.r14k = s.pc + 4#32 ∧ t.readReg .kernel 14#4 = s.pc + 4#32 ∧ t.pc = s.params.osBase ∧
      OnlyChanges s t
        (fun r => r = .pc ∨ r = .cpsr ∨ r = .kpsr ∨ r = .r14k ∨ r = .gpr 0) noByte

/-- `srg` writes the one CPSR bit at the position and nothing else but the pc. Rests on what the spec marks
as decided, D22, D23 (log 31). -/
def Obligations.SrgWritesOneStatusBit : Prop :=
  ∀ (s : State) (m : Mode) (value : Bool) (pos : BitVec 5), s.mode = some m →
    (s.params.privCheck = false ∨ m ≠ .user) →
    ∃ psr : Word, WritesStatus (.srg value pos) s psr ∧ statusBit psr pos = value ∧
      SameStatusBut s.cpsr psr [pos]

/-- `ioi` with an `IoDevice`: r0 to r14 of the current mode and the memory are what the device answers to
the location, the registers, the memory and the history; the step is added to the history; the pc advances;
nothing else changes (log 14, 29). Rests on what the spec marks as decided, D23, D24 (log 31). -/
def Obligations.IoiAppliesTheDevice : Prop :=
  ∀ (s : State) (m : Mode) (location : BitVec 20), s.mode = some m →
    (s.params.privCheck = false ∨ m ≠ .user) → s.params.ioDevice = .given →
    let regs : Vector Word 15 := Vector.ofFn fun i => s.readReg m (BitVec.ofNat 4 i.val)
    let answer := Config.ioDevice location regs s.mem s.ioHistory
    ∃ t, exec (.ioi location) s = .next t ∧
      (∀ i : Fin 15, t.readReg m (BitVec.ofNat 4 i.val) = answer.1[i]) ∧
      t.mem = memoryOf s.params.memMap answer.2 ∧ t.pc = s.pc + 4#32 ∧
      t.ioHistory = s.ioHistory ++ [{ location := location, regs := regs, mem := s.mem }] ∧
      (∀ r, r ≠ .pc → (∀ n : RegNum, n ≠ 15#4 → r ≠ home s.params.banking m n) →
        t.get r = s.get r) ∧
      t.timerPending = s.timerPending ∧ t.draws = s.draws ∧ t.params = s.params

/-- `rfi 0` in kernel mode and `rfi 1` in interrupt mode: all of the CPSR comes back from the saved status
and the pc from the saved return address; nothing else changes. Under `BANKING` = none that is the model's
choice (log 10). Rests on what the spec marks as decided, D19, D21, D23 (log 31). -/
def Obligations.RfiReturns : Prop :=
  ∀ (s : State),
    (s.mode = some .kernel →
      ∃ t, exec (.rfi 0#20) s = .next t ∧ t.cpsr = s.kpsr ∧ t.pc = s.r14k ∧
        OnlyChanges s t (fun r => r = .pc ∨ r = .cpsr) noByte) ∧
    (s.mode = some .interrupt →
      ∃ t, exec (.rfi 1#20) s = .next t ∧ t.cpsr = s.ipsr ∧ t.pc = s.r14i ∧
        OnlyChanges s t (fun r => r = .pc ∨ r = .cpsr) noByte)

/-- `mkd` of kr0 to kr6 (and of kr7 to kr15 under the switch of R38): the kernel register receives the
general register, the pc advances, nothing else changes; the numbering is the card's. That kr7 to kr15 are
plain storage under the switch is the model's choice (log 15): the spec refuses them (D26). Rests on what
the spec marks as decided, D19, D23 (log 31). -/
def Obligations.MkdWritesTheKernelRegister : Prop :=
  (∀ (s : State) (m : Mode) (krd rm : RegNum), s.mode = some m →
    (s.params.privCheck = false ∨ m ≠ .user) →
    (krd.toNat < 7 ∨ s.params.krStorage = .plain) →
    ∃ t, exec (.mkd krd rm) s = .next t ∧ t.get (kernelHome krd) = s.readReg m rm ∧
      t.pc = s.pc + 4#32 ∧
      OnlyChanges s t (fun r => r = .pc ∨ r = kernelHome krd) noByte) ∧
  kernelHome 0#4 = .cpsr ∧ kernelHome 1#4 = .kpsr ∧ kernelHome 2#4 = .r13k ∧
  kernelHome 3#4 = .r14k ∧ kernelHome 4#4 = .ipsr ∧ kernelHome 5#4 = .r13i ∧
  kernelHome 6#4 = .r14i ∧
  (∀ n : Fin 9, kernelHome (BitVec.ofNat 4 (n.val + 7)) = .kr n)

/-- `mks` of kr0 to kr6 (and of kr7 to kr15 under the switch of R38): rd receives the kernel register as it
was before the instruction, and nothing but rd and the pc changes. That kr7 to kr15 are plain storage under
the switch is the model's choice (log 15): the spec refuses them (D26). Rests on what the spec marks as
decided, D19, D23 (log 31). -/
def Obligations.MksReadsTheKernelRegister : Prop :=
  ∀ (s : State) (m : Mode) (rd krm : RegNum), s.mode = some m →
    (s.params.privCheck = false ∨ m ≠ .user) → rd ≠ 15#4 →
    (krm.toNat < 7 ∨ s.params.krStorage = .plain) →
    WritesReg (.mks rd krm) s m rd (s.get (kernelHome krm))

/-- In user mode under `PRIV_CHECK` the five kernel mode instructions other than `ker` fault, with every
operand. Rests on what the spec marks as decided, D23 (log 31). -/
def Obligations.KernelInstructionsFaultInUserMode : Prop :=
  ∀ (s : State) (value : Bool) (pos : BitVec 5) (imm : BitVec 20) (r r' : RegNum),
    s.mode = some .user → s.params.privCheck = true →
    exec (.srg value pos) s = .fault (.privilegeViolation s.pc) ∧
    exec (.ioi imm) s = .fault (.privilegeViolation s.pc) ∧
    exec (.rfi imm) s = .fault (.privilegeViolation s.pc) ∧
    exec (.mkd r r') s = .fault (.privilegeViolation s.pc) ∧
    exec (.mks r r') s = .fault (.privilegeViolation s.pc)

/-- What is refused of the kernel mode instructions: `ker` without banking (which of its refusals comes
first is there the model's choice, log 10), outside user mode or with the OS flag 0; `ioi` with no device;
`rfi` in a mode its operand does not return from; `mkd` and `mks` of kr7 to kr15 without the switch of R38
(log 15), `mks` with a destination of 15 apart (log 9). Rests on what the spec marks as decided, D20, D21,
D24, D26, D34 (log 31). -/
def Obligations.KernelRefusals : Prop :=
  ∀ (s : State) (m : Mode) (imm : BitVec 20) (k r : RegNum), s.mode = some m →
    (s.params.banking = .none → exec (.ker imm) s = .refused (.noBankingModel s.pc)) ∧
    (s.params.banking = .banked → m ≠ .user →
      exec (.ker imm) s = .refused (.kerNotFromUser s.pc)) ∧
    (s.params.banking = .banked → m = .user → s.flag s.params.cpsrPos.os = false →
      exec (.ker imm) s = .refused (.kerWithoutOs s.pc)) ∧
    ((s.params.privCheck = false ∨ m ≠ .user) →
      (s.params.ioDevice = .absent → exec (.ioi imm) s = .refused (.ioNotModelled s.pc)) ∧
      (¬ (imm = 0#20 ∧ m = .kernel) → ¬ (imm = 1#20 ∧ m = .interrupt) →
        exec (.rfi imm) s = .refused (.badRfi s.pc)) ∧
      (7 ≤ k.toNat → s.params.krStorage = .refused →
        exec (.mkd k r) s = .refused (.unknownKernelReg s.pc) ∧
        (r ≠ 15#4 → exec (.mks r k) s = .refused (.unknownKernelReg s.pc))))

/-- `rfi 0` undoes `ker`: right after the call it resumes user mode at the next instruction with the whole
CPSR, and with every register of the user bank but r0 as it was. Rests on what the spec marks as decided,
D20, D21 (log 31). -/
def Obligations.RfiUndoesKer : Prop :=
  ∀ (s t : State) (imm : BitVec 20), cpsrPosWf s.params.cpsrPos = true →
    exec (.ker imm) s = .next t →
    ∃ u, exec (.rfi 0#20) t = .next u ∧ u.cpsr = s.cpsr ∧ u.mode = some .user ∧
      u.pc = s.pc + 4#32 ∧ (∀ r, r ≠ 0#4 → r ≠ 15#4 → u.readReg .user r = s.readReg .user r) ∧
      (∀ a, u.byte? a = s.byte? a)

/-- `rfi 1` undoes the timer interrupt's entry: right after it, the interrupted program's mode, status, pc
and registers are back, and the kernel call's saved registers were never touched. Under `BANKING` = none
both are the model's choice (log 10, 11). Rests on what the spec marks as decided, D21, D25 (log 31). -/
def Obligations.RfiUndoesTheTimerInterrupt : Prop :=
  ∀ (s : State) (m : Mode), cpsrPosWf s.params.cpsrPos = true → s.mode = some m →
    ∃ u, exec (.rfi 1#20) s.takeTimer = .next u ∧ u.cpsr = s.cpsr ∧ u.mode = some m ∧
      u.pc = s.pc ∧ (∀ r, r ≠ .ipsr → r ≠ .r14i → u.get r = s.get r) ∧
      (∀ a, u.byte? a = s.byte? a)

/-! ### Refusals of the fields -/

/-- A destination or writeback base of 15 is refused in every instruction that has one, for `mks` where the
mode may run it. For `mks` of kr7 to kr15 and for a floating-point immediate, that this refusal comes first
is the model's choice between two orders (log 9). Rests on what the spec marks as decided, D6, D38 (log 31). -/
def Obligations.WriteToPcIsRefused : Prop :=
  ∀ (i : Instr) (s : State) (m : Mode), i.shape.writesPc = true → s.mode = some m →
    ((∀ rd krm, i ≠ .mks rd krm) ∨ s.params.privCheck = false ∨ m ≠ .user) →
    exec i s = .refused (.writeToPc s.pc)

/-- A load or store with writeback whose rd is its base is refused under the name of its kind. Rests on what
the spec marks as decided, D10 (log 31). -/
def Obligations.WritebackToOwnRegisterIsRefused : Prop :=
  ∀ (s : State) (m : Mode) (rd : RegNum) (form : AddrForm), s.mode = some m → rd ≠ 15#4 →
    form.writebackBase = some rd →
    exec (ldrOf rd form) s = .refused (.loadBaseEqualsDest s.pc) ∧
    exec (ldbOf rd form) s = .refused (.loadBaseEqualsDest s.pc) ∧
    exec (strOf rd form) s = .refused (.storeBaseEqualsSource s.pc) ∧
    exec (stbOf rd form) s = .refused (.storeBaseEqualsSource s.pc)

/-- An instruction that its fields alone make ill-formed never completes, in any state. What is ill-formed
is the model's choice (log 23). Rests on what the spec marks as decided, D6, D10, D21, D37 (log 31). -/
def Obligations.IllFormedInstructionsNeverComplete : Prop :=
  ∀ (i : Instr) (s : State), i.wellFormed = false → Stops i s

/-! ### The whole machine -/

/-- Every step keeps the invariant: admitted parameters, memory in canonical form and inside `MemMap`; and
no step changes the parameters. Which parameters are admitted, and that a device's memory is cut to
`MemMap`, is the model's choice (log 14, 20). Rests on what the spec marks as decided, D29, D33 (log 31). -/
def Obligations.StepKeepsTheInvariant : Prop :=
  ∀ (s t : State), s.wf = true → step s = .next t → t.wf = true ∧ t.params = s.params

/-- The state at reset meets the invariant and is the launch of the default record: user mode, the OS flag
and the condition flags 0, no memory, no interrupt pending. Its registers are 0 and its pc is 0 by the
model's choice (log 4, 5). Rests on what the spec marks as decided, D27 (log 31). -/
def Obligations.ResetIsTheDefaultLaunch : Prop :=
  State.reset.wf = true ∧ State.reset = launch defaultLaunch ∧
  State.reset.cpsr = 0x08000000#32 ∧ State.reset.mode = some .user ∧ State.reset.mem = [] ∧
  State.reset.timerPending = false

/-- Every launch with admitted parameters gives a state that meets the invariant, in the launch's mode and
with its OS flag, its `END_PC` and N, Z, C and V 0. Which parameters are admitted is the model's reading
(log 20). Rests on what the spec marks as decided, D27, D33 (log 31). -/
def Obligations.LaunchMeetsTheInvariant : Prop :=
  ∀ (l : Launch), paramsWf l.params = true →
    (launch l).wf = true ∧ (launch l).mode = some l.mode0 ∧ (launch l).pc = l.entry ∧
    (launch l).params.launchMode = l.mode0 ∧ (launch l).params.endPc = l.endPc ∧
    (launch l).flag l.params.cpsrPos.os = l.os ∧
    ∀ pos ∈ [l.params.cpsrPos.n, l.params.cpsrPos.z, l.params.cpsrPos.c, l.params.cpsrPos.v],
      (launch l).flag pos = false

/-- In user mode under `PRIV_CHECK`, no instruction but `ker` leaves user mode, writes a bit of the CPSR
other than N, Z, C and V, or touches a kernel register, a banked register of another mode or the I/O
history. Rests on what the spec marks as decided, D18, D19, D23 (log 31). -/
def Obligations.UserModeIsConfined : Prop :=
  ∀ (i : Instr) (s t : State), cpsrPosWf s.params.cpsrPos = true → s.mode = some .user →
    s.params.privCheck = true → (∀ imm, i ≠ .ker imm) → exec i s = .next t →
    t.mode = some .user ∧
    SameStatusBut s.cpsr t.cpsr
      [s.params.cpsrPos.n, s.params.cpsrPos.z, s.params.cpsrPos.c, s.params.cpsrPos.v] ∧
    (∀ r, r ≠ .pc → r ≠ .cpsr → (∀ n, r ≠ .gpr n) → t.get r = s.get r) ∧
    t.ioHistory = s.ioHistory ∧ t.timerPending = s.timerPending ∧ t.params = s.params

/-- Who writes the condition flags, besides `srg`, `mkd` to kr0 and `rfi`: N and Z only `cmp`, `tst`, `teq`
and `cmf`; C and V only `cmp`, and that only under `CMP_WRITES_CV` = true. Rests on what the spec marks as
decided, D12, D15 (log 31). -/
def Obligations.OnlyComparesAndStatusWritesChangeFlags : Prop :=
  ∀ (i : Instr) (s t : State), cpsrPosWf s.params.cpsrPos = true → exec i s = .next t →
    (∀ value pos, i ≠ .srg value pos) → (∀ rm, i ≠ .mkd 0#4 rm) → (∀ imm, i ≠ .rfi imm) →
    (s.params.cmpWritesCV = false ∨ (∀ rd o, i.shape ≠ .move .cmp rd o) →
      t.flag s.params.cpsrPos.c = s.flag s.params.cpsrPos.c ∧
      t.flag s.params.cpsrPos.v = s.flag s.params.cpsrPos.v) ∧
    ((∀ op rd o, i.shape = .move op rd o → op.writesRd = true) →
      t.flag s.params.cpsrPos.n = s.flag s.params.cpsrPos.n ∧
      t.flag s.params.cpsrPos.z = s.flag s.params.cpsrPos.z)

/-! ### The assembler's spelling -/

/-- A line written for an instruction is assembled to that instruction, at every address. Which numbers are
admitted, and the written form of a branch to a register plus an offset, which the card writes only as
`!label`, are the model's choice (log 24, 32). Rests on what the spec marks as decided, D7, D8 (log 31). -/
def Obligations.AssemblingAListingGivesTheInstruction : Prop :=
  ∀ (p : Params) (here : Word) (i : Instr), assemble p here (listing i) = some i

/-- `!label`, where its offset fits the field, is assembled to address form 2, or branch form 0xbn, with
register 15, and reaches the label's address from the instruction's own, under every `PC_READ_OFFSET`. The
offset is taken modulo 2^32, so that a label reached only by wrapping is assembled: the model's choice (log
24). Rests on what the spec marks as decided, D5, D17, D36 (log 31). -/
def Obligations.LabelSpellingReachesTheLabel : Prop :=
  ∀ (s : State) (m : Mode) (label : Word),
    (∀ (op : LoadStoreOp) (rd : RegNum) (i : Instr),
      assemble s.params s.pc (.loadStore op rd (.label label)) = some i →
      ∃ imm, i = loadStoreOf op rd (.off 15#4 imm) ∧
        s.effectiveAddress m (.off 15#4 imm) = label) ∧
    (∀ (op : BranchOp) (i : Instr),
      assemble s.params s.pc (.branch op (.label label)) = some i →
      ∃ imm, i = branchOf op (.rel 15#4 imm) ∧ s.target m (.rel 15#4 imm) = label) ∧
    (∀ (op : LoadStoreOp) (rd : RegNum),
      (-32768 ≤ labelOffset s.params s.pc label ∧ labelOffset s.params s.pc label ≤ 32767 ↔
        (assemble s.params s.pc (.loadStore op rd (.label label))).isSome = true)) ∧
    (∀ (op : BranchOp),
      (-524288 ≤ labelOffset s.params s.pc label ∧ labelOffset s.params s.pc label ≤ 524287 ↔
        (assemble s.params s.pc (.branch op (.label label))).isSome = true))
end

