-- ==== Sys2Proof/Laws/Dispatch.lean ====
section
/-! SUPPORT. The meaning of an instruction by its cell in the card's grids, so that a claim about every
instruction is proved over five families instead of 118 constructors. -/

namespace Sys2Proof.Machine

/-- The meaning of the arithmetic grid. -/
def arithMeaning (op : ArithOp) (rd rm : RegNum) (o : ArithOperand) (s : State) : Result :=
  match op, o with
  | .add, o => s.arith (· + ·) rd rm o
  | .sub, o => s.arith (· - ·) rd rm o
  | .mul, o => s.arith (· * ·) rd rm o
  | .div, o => s.divide (divS s.params) rd rm o
  | .mod, o => s.divide (modS s.params) rd rm o
  | .and, o => s.arith (· &&& ·) rd rm o
  | .orr, o => s.arith (· ||| ·) rd rm o
  | .eor, o => s.arith (· ^^^ ·) rd rm o
  | .adc, o => s.arith s.addCarry rd rm o
  | .sbc, o => s.arith s.subCarry rd rm o
  | .adf, .reg rn => s.arith Config.fAdd rd rm (.reg rn)
  | .suf, .reg rn => s.arith Config.fSub rd rm (.reg rn)
  | .muf, .reg rn => s.arith Config.fMul rd rm (.reg rn)
  | .dif, .reg rn => s.arith Config.fDiv rd rm (.reg rn)
  | .adf, .imm _ => s.floatImmediate rd
  | .suf, .imm _ => s.floatImmediate rd
  | .muf, .imm _ => s.floatImmediate rd
  | .dif, .imm _ => s.floatImmediate rd

/-- The meaning of the move, compare and shift grid. -/
def moveMeaning (op : MoveOp) (rd : RegNum) (o : MoveOperand) (s : State) : Result :=
  match op, o with
  | .mov, o => s.move (fun _ b => b) rd o
  | .mva, o => s.moveAddress rd o
  | .cmp, o => s.compare compareStatus rd o
  | .tst, o => s.compare testStatus rd o
  | .teq, o => s.compare testEqStatus rd o
  | .shf, o => s.move shiftLogical rd o
  | .sha, o => s.move shiftArithmetic rd o
  | .rot, o => s.move rotate rd o
  | .one, o => s.move (fun _ b => ~~~b) rd o
  | .fti, .reg rm => s.move (fun _ b => Config.fToI b) rd (.reg rm)
  | .fti, .imm _ => s.floatImmediate rd
  | .itf, o => s.move (fun _ b => Config.iToF b) rd o
  | .cmf, .reg rm => s.compare floatCompareStatus rd (.reg rm)
  | .cmf, .imm _ => s.floatCompareImmediate

/-- The meaning of the branch grid. -/
def branchMeaning (op : BranchOp) (d : Dest) (s : State) : Result :=
  match op with
  | .bal => s.branch .bal d
  | .beq => s.branch .beq d
  | .bne => s.branch .bne d
  | .blt => s.branch .blt d
  | .ble => s.branch .ble d
  | .bgt => s.branch .bgt d
  | .bge => s.branch .bge d
  | .blr => s.branchLink d

/-- The meaning of a cell. -/
def execShape (sh : Shape) (s : State) : Result :=
  match sh with
  | .loadStore .ldr rd form => s.loadWordForm rd form
  | .loadStore .ldb rd form => s.loadByteForm rd form
  | .loadStore .str rd form => s.storeWordForm rd form
  | .loadStore .stb rd form => s.storeByteForm rd form
  | .arith op rd rm o => arithMeaning op rd rm o s
  | .move op rd o => moveMeaning op rd o s
  | .branch op d => branchMeaning op d s
  | .kernel (.ker imm) => execKer imm s
  | .kernel (.srg value pos) => execSrg value pos s
  | .kernel (.ioi location) => execIoi location s
  | .kernel (.rfi imm) => execRfi imm s
  | .kernel (.mkd krd rm) => execMkd krd rm s
  | .kernel (.mks rd krm) => execMks rd krm s

/-- The meaning of an instruction is the meaning of its cell. -/
theorem exec_eq_execShape (i : Instr) (s : State) : exec i s = execShape i.shape s := by
  cases i <;> rfl

/-- The instruction in a cell has that cell. -/
@[simp] theorem shape_instr (sh : Shape) : sh.instr.shape = sh := by
  cases sh with
  | loadStore op rd form => cases op <;> cases form <;> rfl
  | arith op rd rm o => cases o <;> cases op <;> rfl
  | move op rd o => cases o <;> cases op <;> rfl
  | branch op d => cases d <;> cases op <;> rfl
  | kernel k => cases k <;> rfl

/-- The cell of an instruction holds that instruction. -/
@[simp] theorem instr_shape (i : Instr) : i.shape.instr = i := by
  cases i <;> rfl

theorem exec_instr (sh : Shape) (s : State) : exec sh.instr s = execShape sh s := by
  rw [exec_eq_execShape, shape_instr]

end Sys2Proof.Machine
end

