-- ==== Sys2Proof/Laws/Encoding.lean ====
section
/-! SUPPORT. The fields of an encoded word: a field put at its place is read back from it, and a field put
elsewhere leaves it 0. -/

namespace Sys2Proof

theorem extract_or {low n : Nat} (x y : Word) :
    (x ||| y).extractLsb' low n = x.extractLsb' low n ||| y.extractLsb' low n := by
  ext i hi
  simp

theorem extract_placeField_self {low n : Nat} (v : BitVec n) (h : low + n ≤ 32) :
    (placeField low v).extractLsb' low n = v := by
  ext i hi
  simp only [placeField, BitVec.getElem_extractLsb', BitVec.getLsbD_shiftLeft,
    BitVec.getLsbD_setWidth]
  have h1 : low + i < 32 := by omega
  have h2 : ¬ low + i < low := by omega
  have h3 : low + i - low = i := by omega
  have h4 : i < 32 := by omega
  simp [h1, h2, h3, h4, BitVec.getLsbD_eq_getElem hi]

theorem extract_placeField_apart {low n low' n' : Nat} (v : BitVec n')
    (h : low + n ≤ low' ∨ low' + n' ≤ low) : (placeField low' v).extractLsb' low n = 0#n := by
  ext i hi
  simp only [placeField, BitVec.getElem_extractLsb', BitVec.getLsbD_shiftLeft,
    BitVec.getLsbD_setWidth, BitVec.getElem_zero]
  rcases h with h | h
  · have : low + i < low' := by omega
    simp [this]
  · have : v.getLsbD (low + i - low') = false := BitVec.getLsbD_of_ge _ _ (by omega)
    simp [this]

theorem fieldsApart_iff {low width low' width' : Nat} :
    fieldsApart low width low' width' = true ↔ low + width ≤ low' ∨ low' + width' ≤ low := by
  simp [fieldsApart]

/-- The operand bits of a cell do not reach into the opcode field. -/
theorem extract_opcode_packShape {l : Layout} (h : l.wf = true) (sh : Shape) :
    (packShape l sh).extractLsb' l.opcode 8 = 0#8 := by
  simp only [Layout.wf, Bool.and_eq_true, fieldsApart_iff] at h
  obtain ⟨⟨⟨⟨⟨_, ⟨⟨⟨⟨hrd, hrm⟩, hrn⟩, h12⟩, h16⟩, h20⟩, _⟩, _⟩, _⟩, _⟩ := h
  have erd := fun v : RegNum => extract_placeField_apart v hrd
  have erm := fun v : RegNum => extract_placeField_apart v hrm
  have ern := fun v : RegNum => extract_placeField_apart v hrn
  have e12 := fun v : BitVec 12 => extract_placeField_apart v h12
  have e16 := fun v : BitVec 16 => extract_placeField_apart v h16
  have e20 := fun v : BitVec 20 => extract_placeField_apart v h20
  cases sh with
  | loadStore op rd form =>
    cases form <;>
      simp [packShape, packAddrForm, packF1, packF1A, packF2, packF3, extract_or, erd, erm, ern, e12,
        e16, e20]
  | arith op rd rm o => cases o <;> simp [packShape, packF1, packF3, extract_or, erd, erm, ern, e16]
  | move op rd o =>
    cases o <;> simp [packShape, packF1, packF2, extract_or, erd, erm, ern, e20]
  | branch op d => cases d <;> simp [packShape, packF2, extract_or, erd, e20]
  | kernel k =>
    cases k <;> simp [packShape, packKernel, packF1, packF2, extract_or, erd, erm, ern, e20]

/-- The opcode byte of an encoded instruction is the instruction's opcode. -/
theorem opcodeField_encodeWith {l : Layout} (h : l.wf = true) (i : Instr) :
    opcodeField l (encodeWith l i) = i.opcode := by
  have h8 : l.opcode + 8 ≤ 32 := by
    simp only [Layout.wf, Bool.and_eq_true, decide_eq_true_eq] at h
    exact h.1.1.1.1.1.1.1.1.1.1.1
  rw [opcodeField, encodeWith, extract_or, extract_placeField_self _ h8,
    extract_opcode_packShape h, BitVec.or_zero]

end Sys2Proof
end

