-- ==== Sys2Proof/Laws/Flags.lean ====
section
/-! SUPPORT. Read after write of a bit of the status register, and the mode after it is written. -/

namespace Sys2Proof.Machine

/-- Read after write of a status bit: the one law of `setStatusBit`. -/
theorem statusBit_setStatusBit (psr : Word) (pos pos' : BitVec 5) (b : Bool) :
    statusBit (setStatusBit psr pos b) pos' = if pos' = pos then b else statusBit psr pos' := by
  have h : ∀ (p q : Nat), p < 32 → q < 32 →
      ((psr &&& ~~~(1#32 <<< p)) ||| ((BitVec.ofBool b).setWidth 32 <<< p)).getLsbD q =
        if q = p then b else psr.getLsbD q := by
    intro p q hp hq
    simp only [BitVec.getLsbD_or, BitVec.getLsbD_and, BitVec.getLsbD_not, BitVec.getLsbD_shiftLeft,
      BitVec.getLsbD_setWidth, BitVec.getLsbD_ofBool, BitVec.getLsbD_one]
    rcases Nat.lt_trichotomy q p with hlt | heq | hgt
    · simp [hq, hlt, Nat.ne_of_lt hlt]
    · subst heq; simp [hq]
    · have h1 : ¬ q < p := by omega
      have h2 : q - p ≠ 0 := by omega
      have h3 : q ≠ p := by omega
      simp [hq, h1, h2, h3]
  have hiff : pos' = pos ↔ pos'.toNat = pos.toNat := BitVec.toNat_inj.symm
  simp only [statusBit, setStatusBit, hiff]
  exact h _ _ pos.isLt pos'.isLt

@[simp] theorem statusBit_setStatusBit_self (psr : Word) (pos : BitVec 5) (b : Bool) :
    statusBit (setStatusBit psr pos b) pos = b := by
  simp [statusBit_setStatusBit]

theorem statusBit_setStatusBit_of_ne (psr : Word) {pos pos' : BitVec 5} (b : Bool)
    (h : pos' ≠ pos) : statusBit (setStatusBit psr pos b) pos' = statusBit psr pos' := by
  simp [statusBit_setStatusBit, h]

/-- A mode and the three flags that hold it. -/
theorem modeOf_eq_some_iff (p : CpsrPos) (psr : Word) (m : Mode) :
    modeOf p psr = some m ↔
      statusBit psr p.u = (m == .user) ∧ statusBit psr p.k = (m == .kernel) ∧
        statusBit psr p.i = (m == .interrupt) := by
  unfold modeOf
  cases statusBit psr p.u <;> cases statusBit psr p.k <;> cases statusBit psr p.i <;> cases m <;>
    decide

/-- `withMode` writes the three mode flags and no other bit. -/
theorem statusBit_withMode_of_ne (p : CpsrPos) (psr : Word) (m : Mode) {pos : BitVec 5}
    (hu : pos ≠ p.u) (hk : pos ≠ p.k) (hi : pos ≠ p.i) :
    statusBit (withMode p psr m) pos = statusBit psr pos := by
  simp [withMode, statusBit_setStatusBit, hu, hk, hi]

/-- `withNZ` writes N and Z and no other bit. -/
theorem statusBit_withNZ_of_ne (p : CpsrPos) (psr : Word) (n z : Bool) {pos : BitVec 5}
    (hn : pos ≠ p.n) (hz : pos ≠ p.z) : statusBit (withNZ p psr n z) pos = statusBit psr pos := by
  simp [withNZ, statusBit_setStatusBit, hn, hz]

/-- `withCV` writes C and V and no other bit. -/
theorem statusBit_withCV_of_ne (p : CpsrPos) (psr : Word) (c v : Bool) {pos : BitVec 5}
    (hc : pos ≠ p.c) (hv : pos ≠ p.v) : statusBit (withCV p psr c v) pos = statusBit psr pos := by
  simp [withCV, statusBit_setStatusBit, hc, hv]

end Sys2Proof.Machine
end

