-- ==== Sys2Proof/Laws/Memory.lean ====
section
/-! SUPPORT. The laws of memory: read after write, and every operation keeps the canonical form. -/

namespace Sys2Proof.Machine

/-! ### Read after write -/

theorem Memory.read_write (mem : Memory) (a a' : Nat) (b : Byte) :
    (mem.write a b).read a' = if a' = a then some b else mem.read a' := by
  induction mem with
  | nil => simp [Memory.write, Memory.read, unlistedByte, eq_comm]
  | cons c rest ih =>
    obtain ⟨k, v⟩ := c
    simp only [Memory.write]
    split
    · simp [Memory.read, eq_comm]
    · split
      · next h =>
        subst h
        by_cases ha : a' = a
        · simp [Memory.read, ha]
        · simp [Memory.read, ha, Ne.symm ha]
      · next h =>
        simp only [Memory.read, ih]
        by_cases hk : k = a'
        · subst hk; simp [Ne.symm h]
        · simp [hk]

@[simp] theorem Memory.read_write_self (mem : Memory) (a : Nat) (b : Byte) :
    (mem.write a b).read a = some b := by
  simp [Memory.read_write]

theorem Memory.read_write_of_ne (mem : Memory) {a a' : Nat} (b : Byte) (h : a' ≠ a) :
    (mem.write a b).read a' = mem.read a' := by
  simp [Memory.read_write, h]

/-- Writing consecutive bytes leaves every byte outside them alone. -/
theorem Memory.read_writeList_of_outside (bytes : List Byte) :
    ∀ (mem : Memory) (a : Nat) {a' : Nat}, (a' < a ∨ a + bytes.length ≤ a') →
      (mem.writeList a bytes).read a' = mem.read a' := by
  induction bytes with
  | nil => intros; rfl
  | cons b rest ih =>
    intro mem a a' h
    simp only [List.length_cons] at h
    rw [Memory.writeList, ih _ _ (by omega), Memory.read_write_of_ne _ _ (by omega)]

/-- Consecutive bytes read back what was written. -/
theorem Memory.read_writeList_inside (bytes : List Byte) :
    ∀ (mem : Memory) (a i : Nat) (h : i < bytes.length),
      (mem.writeList a bytes).read (a + i) = some bytes[i] := by
  induction bytes with
  | nil => intro _ _ _ h; simp at h
  | cons b rest ih =>
    intro mem a i h
    cases i with
    | zero =>
      rw [Memory.writeList, Memory.read_writeList_of_outside _ _ _ (by omega)]
      simp
    | succ i =>
      have := ih (mem.write a b) (a + 1) i (by simpa using h)
      rw [Memory.writeList, show a + (i + 1) = a + 1 + i by omega, this]
      simp

/-! ### The canonical form -/

theorem Memory.risingFrom_mono {low low' : Nat} (h : low' ≤ low) :
    ∀ {mem : Memory}, mem.risingFrom low = true → mem.risingFrom low' = true := by
  intro mem hm
  cases mem with
  | nil => rfl
  | cons c rest =>
    obtain ⟨k, v⟩ := c
    simp only [Memory.risingFrom, Bool.and_eq_true, decide_eq_true_eq] at hm ⊢
    exact ⟨⟨by omega, hm.1.2⟩, hm.2⟩

theorem Memory.risingFrom_write :
    ∀ (mem : Memory) (low a : Nat) (b : Byte), low ≤ a → a < 2 ^ 32 →
      mem.risingFrom low = true → (mem.write a b).risingFrom low = true := by
  intro mem
  induction mem with
  | nil =>
    intro low a b hl ha _
    simpa [Memory.write, Memory.risingFrom] using ⟨hl, ha⟩
  | cons c rest ih =>
    obtain ⟨k, v⟩ := c
    intro low a b hl ha hm
    simp only [Memory.risingFrom, Bool.and_eq_true, decide_eq_true_eq] at hm
    simp only [Memory.write]
    split
    · simp only [Memory.risingFrom, Bool.and_eq_true, decide_eq_true_eq]
      exact ⟨⟨hl, ha⟩, ⟨by omega, hm.1.2⟩, hm.2⟩
    · split
      · next h =>
        subst h
        simp only [Memory.risingFrom, Bool.and_eq_true, decide_eq_true_eq]
        exact ⟨⟨hl, ha⟩, hm.2⟩
      · simp only [Memory.risingFrom, Bool.and_eq_true, decide_eq_true_eq]
        exact ⟨hm.1, ih _ _ _ (by omega) ha hm.2⟩

/-- A write keeps the canonical form. -/
theorem Memory.wf_write {mem : Memory} {a : Nat} (b : Byte) (ha : a < 2 ^ 32)
    (h : mem.wf = true) : (mem.write a b).wf = true :=
  Memory.risingFrom_write mem 0 a b (Nat.zero_le _) ha h

/-- A write of consecutive bytes keeps the canonical form. -/
theorem Memory.wf_writeList (bytes : List Byte) :
    ∀ {mem : Memory} {a : Nat}, a + bytes.length ≤ 2 ^ 32 → mem.wf = true →
      (mem.writeList a bytes).wf = true := by
  induction bytes with
  | nil => intro mem a _ h; exact h
  | cons b rest ih =>
    intro mem a ha h
    simp only [List.length_cons] at ha
    exact ih (by omega) (Memory.wf_write b (by omega) h)

/-- An address in a memory after a write is the written one or was there before. -/
theorem Memory.mem_write {mem : Memory} {a : Nat} {b : Byte} {c : Host.Cell}
    (h : c ∈ mem.write a b) : c = (a, b) ∨ c ∈ mem := by
  induction mem with
  | nil => simpa [Memory.write] using h
  | cons d rest ih =>
    obtain ⟨k, v⟩ := d
    simp only [Memory.write] at h
    split at h
    · simpa using h
    · split at h
      · rcases List.mem_cons.1 h with h | h
        · exact .inl h
        · exact .inr (List.mem_cons_of_mem _ h)
      · rcases List.mem_cons.1 h with h | h
        · exact .inr (h ▸ List.mem_cons_self)
        · rcases ih h with h | h
          · exact .inl h
          · exact .inr (List.mem_cons_of_mem _ h)

/-- The memory of a list of cells with addresses of 32 bits is in canonical form. -/
theorem Memory.wf_foldl_write (cells : List Host.Cell) :
    ∀ {mem : Memory}, (∀ c ∈ cells, c.1 < 2 ^ 32) → mem.wf = true →
      (cells.foldl (fun mem c => Memory.write mem c.1 c.2) mem).wf = true := by
  induction cells with
  | nil => intro mem _ h; exact h
  | cons c rest ih =>
    intro mem hc h
    exact ih (fun d hd => hc d (List.mem_cons_of_mem _ hd))
      (Memory.wf_write _ (hc c List.mem_cons_self) h)

/-- `memoryOf` answers a memory in canonical form. -/
theorem memoryOf_wf (regions : List Region) (cells : List Host.Cell) :
    (memoryOf regions cells).wf = true := by
  refine Memory.wf_foldl_write _ (fun c hc => ?_) rfl
  simp only [List.mem_filter, Bool.and_eq_true, decide_eq_true_eq] at hc
  exact hc.2.1

/-- Every address of `memoryOf` is in `MemMap`. -/
theorem memoryOf_inMap (regions : List Region) (cells : List Host.Cell) :
    ∀ c ∈ memoryOf regions cells, inMap regions c.1 = true := by
  have h : ∀ (l : List Host.Cell) (mem : Memory), (∀ c ∈ l, inMap regions c.1 = true) →
      (∀ c ∈ mem, inMap regions c.1 = true) →
      ∀ c ∈ l.foldl (fun mem c => Memory.write mem c.1 c.2) mem, inMap regions c.1 = true := by
    intro l
    induction l with
    | nil => intro mem _ hm; exact hm
    | cons d rest ih =>
      intro mem hl hm
      refine ih _ (fun c hc => hl c (List.mem_cons_of_mem _ hc)) (fun c hc => ?_)
      rcases Memory.mem_write hc with hc | hc
      · rw [hc]; exact hl d List.mem_cons_self
      · exact hm c hc
  refine h _ _ (fun c hc => ?_) (fun c hc => by simp at hc)
  simp only [List.mem_filter, Bool.and_eq_true, decide_eq_true_eq] at hc
  exact hc.2.2

end Sys2Proof.Machine
end

