-- ==== Sys2Proof/Laws/State.lean ====
section
/-! SUPPORT. The small lemmas of the state: what each update leaves of each field, read after write of a
register, and the register a number names. -/

namespace Sys2Proof.Machine

/-! ### Fields under `State.set` -/

@[simp] theorem State.set_mem (s : State) (r : Register) (v : Word) : (s.set r v).mem = s.mem := by
  cases r <;> rfl

@[simp] theorem State.set_timerPending (s : State) (r : Register) (v : Word) :
    (s.set r v).timerPending = s.timerPending := by
  cases r <;> rfl

@[simp] theorem State.set_ioHistory (s : State) (r : Register) (v : Word) :
    (s.set r v).ioHistory = s.ioHistory := by
  cases r <;> rfl

@[simp] theorem State.set_draws (s : State) (r : Register) (v : Word) :
    (s.set r v).draws = s.draws := by
  cases r <;> rfl

@[simp] theorem State.set_params (s : State) (r : Register) (v : Word) :
    (s.set r v).params = s.params := by
  cases r <;> rfl

/-! ### Read after write of a register -/

@[simp] theorem State.get_set_self (s : State) (r : Register) (v : Word) : (s.set r v).get r = v := by
  cases r <;> simp [State.get, State.set]

theorem State.get_set_of_ne (s : State) {r r' : Register} (v : Word) (h : r' ≠ r) :
    (s.set r v).get r' = s.get r' := by
  cases r <;> cases r' <;>
    simp_all [State.get, State.set, Fin.ext_iff, eq_comm]

theorem State.get_set (s : State) (r r' : Register) (v : Word) :
    (s.set r v).get r' = if r' = r then v else s.get r' := by
  split
  · next h => rw [h, State.get_set_self]
  · next h => exact State.get_set_of_ne s v h

theorem State.pc_eq_get (s : State) : s.pc = s.get .pc := rfl

theorem State.cpsr_eq_get (s : State) : s.cpsr = s.get .cpsr := rfl

@[simp] theorem State.set_pc_pc (s : State) (v : Word) : (s.set .pc v).pc = v := rfl

@[simp] theorem State.set_cpsr_cpsr (s : State) (v : Word) : (s.set .cpsr v).cpsr = v := rfl

theorem State.set_pc_of_ne (s : State) {r : Register} (v : Word) (h : r ≠ .pc) :
    (s.set r v).pc = s.pc := by
  rw [State.pc_eq_get, State.get_set_of_ne s v (Ne.symm h), ← State.pc_eq_get]

theorem State.set_cpsr_of_ne (s : State) {r : Register} (v : Word) (h : r ≠ .cpsr) :
    (s.set r v).cpsr = s.cpsr := by
  rw [State.cpsr_eq_get, State.get_set_of_ne s v (Ne.symm h), ← State.cpsr_eq_get]

/-! ### Fields under `State.advance` -/

@[simp] theorem State.advance_pc (s : State) : s.advance.pc = s.pc + 4#32 := rfl

@[simp] theorem State.advance_cpsr (s : State) : s.advance.cpsr = s.cpsr := rfl

@[simp] theorem State.advance_regs (s : State) : s.advance.regs = s.regs := rfl

@[simp] theorem State.advance_mem (s : State) : s.advance.mem = s.mem := rfl

@[simp] theorem State.advance_timerPending (s : State) :
    s.advance.timerPending = s.timerPending := rfl

@[simp] theorem State.advance_ioHistory (s : State) : s.advance.ioHistory = s.ioHistory := rfl

@[simp] theorem State.advance_draws (s : State) : s.advance.draws = s.draws := rfl

@[simp] theorem State.advance_params (s : State) : s.advance.params = s.params := rfl

theorem State.advance_eq_set (s : State) : s.advance = s.set .pc (s.pc + 4#32) := rfl

theorem State.get_advance_of_ne (s : State) {r : Register} (h : r ≠ .pc) :
    s.advance.get r = s.get r := by
  rw [State.advance_eq_set, State.get_set_of_ne s _ h]

/-! ### Fields under `State.writeReg` -/

@[simp] theorem State.writeReg_mem (s : State) (m : Mode) (r : RegNum) (v : Word) :
    (s.writeReg m r v).mem = s.mem := by
  simp [State.writeReg]

@[simp] theorem State.writeReg_timerPending (s : State) (m : Mode) (r : RegNum) (v : Word) :
    (s.writeReg m r v).timerPending = s.timerPending := by
  simp [State.writeReg]

@[simp] theorem State.writeReg_ioHistory (s : State) (m : Mode) (r : RegNum) (v : Word) :
    (s.writeReg m r v).ioHistory = s.ioHistory := by
  simp [State.writeReg]

@[simp] theorem State.writeReg_draws (s : State) (m : Mode) (r : RegNum) (v : Word) :
    (s.writeReg m r v).draws = s.draws := by
  simp [State.writeReg]

@[simp] theorem State.writeReg_params (s : State) (m : Mode) (r : RegNum) (v : Word) :
    (s.writeReg m r v).params = s.params := by
  simp [State.writeReg]

/-! ### The register a number names -/

/-- A register number other than 15 names neither the pc, the CPSR, a saved status nor one of kr7 to
kr15. -/
theorem home_cases (b : Banking) (m : Mode) {r : RegNum} (h : r ≠ 15#4) :
    (∃ i : Fin 15, home b m r = .gpr i ∧ i.val = r.toNat) ∨
      (home b m r = .r13k ∧ r = 13#4) ∨ (home b m r = .r14k ∧ r = 14#4) ∨
      (home b m r = .r13i ∧ r = 13#4) ∨ (home b m r = .r14i ∧ r = 14#4) := by
  have hlt : r.toNat < 15 := by
    have := r.isLt
    have hne : r.toNat ≠ 15 := fun e => h (BitVec.eq_of_toNat_eq (by simpa using e))
    omega
  cases b <;> cases m <;> simp only [home, bankedHome, userHome, hlt] <;>
    (try split) <;> (try split) <;> simp_all

theorem home_ne_pc (b : Banking) (m : Mode) {r : RegNum} (h : r ≠ 15#4) : home b m r ≠ .pc := by
  rcases home_cases b m h with ⟨i, hi, _⟩ | ⟨hi, _⟩ | ⟨hi, _⟩ | ⟨hi, _⟩ | ⟨hi, _⟩ <;> simp [hi]

theorem home_ne_cpsr (b : Banking) (m : Mode) {r : RegNum} (h : r ≠ 15#4) : home b m r ≠ .cpsr := by
  rcases home_cases b m h with ⟨i, hi, _⟩ | ⟨hi, _⟩ | ⟨hi, _⟩ | ⟨hi, _⟩ | ⟨hi, _⟩ <;> simp [hi]

/-- Two numbers name the same register of a mode only if they are equal. -/
theorem home_injective (b : Banking) (m : Mode) {r r' : RegNum} (h : home b m r = home b m r') :
    r = r' := by
  revert r r'
  cases b <;> cases m <;> decide

theorem home_fifteen (b : Banking) (m : Mode) : home b m 15#4 = .pc := by
  cases b <;> cases m <;> rfl

@[simp] theorem State.readReg_fifteen (s : State) (m : Mode) :
    s.readReg m 15#4 = s.pc + s.params.pcReadOffset := rfl

theorem State.readReg_of_ne (s : State) (m : Mode) {r : RegNum} (h : r ≠ 15#4) :
    s.readReg m r = s.get (home s.params.banking m r) := by
  simp [State.readReg, h]

/-- Read after write of a general register. -/
theorem State.readReg_writeReg_self (s : State) (m : Mode) {r : RegNum} (v : Word) (h : r ≠ 15#4) :
    (s.writeReg m r v).readReg m r = v := by
  simp [State.readReg, State.writeReg, h]

theorem State.readReg_writeReg_of_ne (s : State) (m : Mode) {r r' : RegNum} (v : Word) (h : r ≠ 15#4)
    (hne : r' ≠ r) : (s.writeReg m r v).readReg m r' = s.readReg m r' := by
  by_cases h15 : r' = 15#4
  · subst h15
    simp [State.writeReg, State.set_pc_of_ne s v (home_ne_pc _ m h)]
  · rw [State.readReg_of_ne _ m h15, State.readReg_of_ne _ m h15, State.writeReg,
      State.set_params, State.get_set_of_ne]
    exact fun e => hne (home_injective _ m e)

theorem State.readReg_advance (s : State) (m : Mode) {r : RegNum} (h : r ≠ 15#4) :
    s.advance.readReg m r = s.readReg m r := by
  rw [State.readReg_of_ne _ m h, State.readReg_of_ne _ m h, State.advance_params,
    State.get_advance_of_ne s (home_ne_pc _ m h)]

theorem State.writeReg_pc (s : State) (m : Mode) {r : RegNum} (v : Word) (h : r ≠ 15#4) :
    (s.writeReg m r v).pc = s.pc :=
  State.set_pc_of_ne s v (home_ne_pc _ m h)

theorem State.writeReg_cpsr (s : State) (m : Mode) (r : RegNum) (v : Word) :
    (s.writeReg m r v).cpsr = s.cpsr := by
  by_cases h : r = 15#4
  · subst h
    simp [State.writeReg, home_fifteen, State.set]
  · exact State.set_cpsr_of_ne s v (home_ne_cpsr _ m h)

/-! ### Taking and returning from an event -/

@[simp] theorem State.enter_mem (s : State) (e : Event) (a : Word) : (s.enter e a).mem = s.mem := by
  simp [State.enter]

@[simp] theorem State.enter_params (s : State) (e : Event) (a : Word) :
    (s.enter e a).params = s.params := by
  simp [State.enter]

@[simp] theorem State.enter_timerPending (s : State) (e : Event) (a : Word) :
    (s.enter e a).timerPending = s.timerPending := by
  simp [State.enter]

@[simp] theorem State.enter_ioHistory (s : State) (e : Event) (a : Word) :
    (s.enter e a).ioHistory = s.ioHistory := by
  simp [State.enter]

@[simp] theorem State.enter_draws (s : State) (e : Event) (a : Word) :
    (s.enter e a).draws = s.draws := by
  simp [State.enter]

@[simp] theorem State.enter_pc (s : State) (e : Event) (a : Word) :
    (s.enter e a).pc = e.vector s.params := rfl

@[simp] theorem State.enter_cpsr (s : State) (e : Event) (a : Word) :
    (s.enter e a).cpsr = withMode s.params.cpsrPos s.cpsr e.mode := by
  cases e <;> rfl

@[simp] theorem State.enter_savedStatus (s : State) (e : Event) (a : Word) :
    (s.enter e a).get e.savedStatus = s.cpsr := by
  cases e <;> rfl

@[simp] theorem State.enter_link (s : State) (e : Event) (a : Word) :
    (s.enter e a).get e.link = a := by
  cases e <;> rfl

/-- What taking an event leaves alone. -/
theorem State.get_enter_of_ne (s : State) (e : Event) (a : Word) {r : Register} (hpc : r ≠ .pc)
    (hcpsr : r ≠ .cpsr) (hsaved : r ≠ e.savedStatus) (hlink : r ≠ e.link) :
    (s.enter e a).get r = s.get r := by
  rw [State.enter, State.get_set_of_ne _ _ hpc, State.get_set_of_ne _ _ hlink,
    State.get_set_of_ne _ _ hcpsr, State.get_set_of_ne _ _ hsaved]

@[simp] theorem State.leave_pc (s : State) (e : Event) : (s.leave e).pc = s.get e.link := by
  cases e <;> rfl

@[simp] theorem State.leave_cpsr (s : State) (e : Event) : (s.leave e).cpsr = s.get e.savedStatus := rfl

@[simp] theorem State.leave_mem (s : State) (e : Event) : (s.leave e).mem = s.mem := by
  simp [State.leave]

@[simp] theorem State.leave_params (s : State) (e : Event) : (s.leave e).params = s.params := by
  simp [State.leave]

/-- What returning from an event leaves alone. -/
theorem State.get_leave_of_ne (s : State) (e : Event) {r : Register} (hpc : r ≠ .pc)
    (hcpsr : r ≠ .cpsr) : (s.leave e).get r = s.get r := by
  rw [State.leave, State.get_set_of_ne _ _ hcpsr, State.get_set_of_ne _ _ hpc]

end Sys2Proof.Machine
end

