-- ==== Sys2Proof/Laws/Ops.lean ====
section
/-! SUPPORT. One lemma for each shared operation that says once everything it can do: if it answers a next
state, then under which conditions, and which state. -/

namespace Sys2Proof.Machine

/-! ### Guards -/

theorem State.inMode_of_mode {s : State} {m : Mode} (h : s.mode = some m) (k : Mode → Result) :
    s.inMode k = k m := by
  simp [State.inMode, h]

theorem State.inMode_of_none {s : State} (h : s.mode = none) (k : Mode → Result) :
    s.inMode k = .refused (.badMode s.pc) := by
  simp [State.inMode, h]

theorem State.inMode_next {s t : State} {k : Mode → Result} (h : s.inMode k = .next t) :
    ∃ m, s.mode = some m ∧ k m = .next t := by
  unfold State.inMode at h
  split at h
  · exact ⟨_, ‹_›, h⟩
  · cases h

theorem State.privileged_of_mode {s : State} {m : Mode} (h : s.mode = some m)
    (hp : s.params.privCheck = false ∨ m ≠ .user) (k : Mode → Result) : s.privileged k = k m := by
  rcases hp with hp | hp
  · simp [State.privileged, State.inMode, h, hp]
  · cases m <;> simp_all [State.privileged, State.inMode]

theorem State.privileged_next {s t : State} {k : Mode → Result} (h : s.privileged k = .next t) :
    ∃ m, s.mode = some m ∧ (s.params.privCheck = false ∨ m ≠ .user) ∧ k m = .next t := by
  obtain ⟨m, hm, h⟩ := State.inMode_next h
  split at h
  · cases h
  · next hp =>
    refine ⟨m, hm, ?_, h⟩
    cases hc : s.params.privCheck
    · exact .inl rfl
    · exact .inr (by simpa [hc] using hp)

theorem State.writing_of_ne {s : State} {rd : RegNum} (h : rd ≠ 15#4) (r : Result) :
    s.writing rd r = r := by
  simp [State.writing, h]

theorem State.writing_next {s t : State} {rd : RegNum} {r : Result} (h : s.writing rd r = .next t) :
    rd ≠ 15#4 ∧ r = .next t := by
  unfold State.writing at h
  split at h
  · cases h
  · exact ⟨‹_›, h⟩

theorem State.guardLoad_of_admitted {s : State} {rd : RegNum} {form : AddrForm} (hrd : rd ≠ 15#4)
    (h15 : form.writebackBase ≠ some 15#4) (hne : form.writebackBase ≠ some rd) (r : Result) :
    s.guardLoad rd form r = r := by
  simp [State.guardLoad, hrd, h15, hne]

theorem State.guardLoad_next {s t : State} {rd : RegNum} {form : AddrForm} {r : Result}
    (h : s.guardLoad rd form r = .next t) :
    rd ≠ 15#4 ∧ form.writebackBase ≠ some 15#4 ∧ form.writebackBase ≠ some rd ∧ r = .next t := by
  unfold State.guardLoad at h
  split at h
  · cases h
  · split at h
    · cases h
    · next h15 hne => exact ⟨fun e => h15 (.inl e), fun e => h15 (.inr e), hne, h⟩

theorem State.guardStore_of_admitted {s : State} {rd : RegNum} {form : AddrForm}
    (h15 : form.writebackBase ≠ some 15#4) (hne : form.writebackBase ≠ some rd) (r : Result) :
    s.guardStore rd form r = r := by
  simp [State.guardStore, h15, hne]

theorem State.guardStore_next {s t : State} {rd : RegNum} {form : AddrForm} {r : Result}
    (h : s.guardStore rd form r = .next t) :
    form.writebackBase ≠ some 15#4 ∧ form.writebackBase ≠ some rd ∧ r = .next t := by
  unfold State.guardStore at h
  split at h
  · cases h
  · split at h
    · cases h
    · next h15 hne => exact ⟨h15, hne, h⟩

/-! ### Memory accesses -/

theorem State.loadByte_ok_iff {s : State} {a : Word} {b : Byte} :
    s.loadByte a = .ok b ↔ s.byte? a.toNat = some b := by
  unfold State.loadByte
  split <;> simp_all

theorem State.loadWord_ok_iff {s : State} {a w : Word} :
    s.loadWord a = .ok w ↔ a.toNat % 4 = 0 ∧ s.word? a.toNat = some w := by
  unfold State.loadWord
  split
  · split <;> simp_all
  · simp_all

theorem State.fetch_ok_iff {s : State} {w : Word} :
    s.fetch = .ok w ↔ s.pc.toNat % 4 = 0 ∧ s.word? s.pc.toNat = some w := by
  unfold State.fetch
  split
  · split <;> simp_all
  · simp_all

theorem State.storeByte_ok {s t : State} {a v : Word} (h : s.storeByte a v = .ok t) :
    inMap s.params.memMap a.toNat = true ∧
      t = { s with mem := s.mem.write a.toNat (v.extractLsb' 0 8) } := by
  unfold State.storeByte at h
  split at h
  · cases h; exact ⟨‹_›, rfl⟩
  · cases h

theorem State.storeWord_ok {s t : State} {a v : Word} (h : s.storeWord a v = .ok t) :
    a.toNat % 4 = 0 ∧ wordInMap s.params.memMap a.toNat = true ∧
      t = { s with mem := s.mem.writeList a.toNat (bytesOfWord s.params.byteOrder v) } := by
  unfold State.storeWord at h
  split at h
  · split at h
    · cases h; exact ⟨‹_›, ‹_›, rfl⟩
    · cases h
  · cases h

@[simp] theorem bytesOfWord_length (order : ByteOrder) (w : Word) :
    (bytesOfWord order w).length = 4 := by
  cases order <;> rfl

/-- The bytes of a word make the word again. -/
theorem wordOfBytes_bytesOfWord (order : ByteOrder) (w : Word) :
    ∀ b0 b1 b2 b3, bytesOfWord order w = [b0, b1, b2, b3] → wordOfBytes order b0 b1 b2 b3 = w := by
  have h : w.extractLsb' 24 8 ++ w.extractLsb' 16 8 ++ w.extractLsb' 8 8 ++ w.extractLsb' 0 8 = w := by
    ext i hi
    simp only [BitVec.getElem_append, BitVec.getElem_extractLsb', Nat.zero_add]
    split
    · rw [BitVec.getLsbD_eq_getElem (by omega)]
    · split
      · rw [BitVec.getLsbD_eq_getElem (by omega)]; congr 1; omega
      · split
        · rw [BitVec.getLsbD_eq_getElem (by omega)]; congr 1; omega
        · rw [BitVec.getLsbD_eq_getElem (by omega)]; congr 1; omega
  intro b0 b1 b2 b3 e
  cases order <;> simp only [bytesOfWord, List.cons.injEq, and_true] at e <;>
    obtain ⟨rfl, rfl, rfl, rfl⟩ := e <;> exact h

/-! ### The shared operations of the families -/

theorem State.load_next {s t : State} {read : Word → Except Fault Word} {rd : RegNum}
    {form : AddrForm} (h : s.load read rd form = .next t) :
    ∃ m v, s.mode = some m ∧ rd ≠ 15#4 ∧ form.writebackBase ≠ some 15#4 ∧
      form.writebackBase ≠ some rd ∧ read (s.effectiveAddress m form) = .ok v ∧
      t = ((s.applyUpdate m (s.baseUpdate m form)).writeReg m rd v).advance := by
  obtain ⟨m, hm, h⟩ := State.inMode_next h
  obtain ⟨h1, h2, h3, h⟩ := State.guardLoad_next h
  split at h
  · next v hv => cases h; exact ⟨m, v, hm, h1, h2, h3, hv, rfl⟩
  · cases h

theorem State.store_next {s t : State} {write : Word → Word → Except Fault State} {rd : RegNum}
    {form : AddrForm} (h : s.store write rd form = .next t) :
    ∃ m s', s.mode = some m ∧ form.writebackBase ≠ some 15#4 ∧ form.writebackBase ≠ some rd ∧
      write (s.effectiveAddress m form) (s.readReg m rd) = .ok s' ∧
      t = (s'.applyUpdate m (s.baseUpdate m form)).advance := by
  obtain ⟨m, hm, h⟩ := State.inMode_next h
  obtain ⟨h1, h2, h⟩ := State.guardStore_next h
  split at h
  · next s' hs => cases h; exact ⟨m, s', hm, h1, h2, hs, rfl⟩
  · cases h

theorem State.arith_next {s t : State} {f : Word → Word → Word} {rd rm : RegNum} {o : ArithOperand}
    (h : s.arith f rd rm o = .next t) :
    ∃ m, s.mode = some m ∧ rd ≠ 15#4 ∧
      t = (s.writeReg m rd (f (s.readReg m rm) (s.arithOp2 m o))).advance := by
  obtain ⟨m, hm, h⟩ := State.inMode_next h
  obtain ⟨h1, h⟩ := State.writing_next h
  cases h
  exact ⟨m, hm, h1, rfl⟩

theorem State.divide_next {s t : State} {f : Word → Word → Word} {rd rm : RegNum} {o : ArithOperand}
    (h : s.divide f rd rm o = .next t) :
    ∃ m, s.mode = some m ∧ rd ≠ 15#4 ∧
      ((s.arithOp2 m o ≠ 0#32 ∧
          t = (s.writeReg m rd (f (s.readReg m rm) (s.arithOp2 m o))).advance) ∨
        (s.arithOp2 m o = 0#32 ∧ s.params.div0 = .draw ∧
          t = { (s.writeReg m rd (Config.divZeroDraw s.draws)).advance with
                draws := s.draws + 1 })) := by
  obtain ⟨m, hm, h⟩ := State.inMode_next h
  obtain ⟨h1, h⟩ := State.writing_next h
  refine ⟨m, hm, h1, ?_⟩
  split at h
  · next h0 =>
    split at h
    · cases h
    · next hd => cases h; exact .inr ⟨h0, hd, rfl⟩
  · next h0 => cases h; exact .inl ⟨h0, rfl⟩

theorem State.floatImmediate_ne_next (s t : State) (rd : RegNum) : s.floatImmediate rd ≠ .next t := by
  intro h
  obtain ⟨m, hm, h⟩ := State.inMode_next h
  obtain ⟨_, h⟩ := State.writing_next h
  cases h

theorem State.floatCompareImmediate_ne_next (s t : State) : s.floatCompareImmediate ≠ .next t := by
  intro h
  obtain ⟨m, hm, h⟩ := State.inMode_next h
  cases h

theorem State.move_next {s t : State} {f : Word → Word → Word} {rd : RegNum} {o : MoveOperand}
    (h : s.move f rd o = .next t) :
    ∃ m, s.mode = some m ∧ rd ≠ 15#4 ∧
      t = (s.writeReg m rd (f (s.readReg m rd) (s.moveOp2 m o))).advance := by
  obtain ⟨m, hm, h⟩ := State.inMode_next h
  obtain ⟨h1, h⟩ := State.writing_next h
  cases h
  exact ⟨m, hm, h1, rfl⟩

theorem State.moveAddress_next {s t : State} {rd : RegNum} {o : MoveOperand}
    (h : s.moveAddress rd o = .next t) :
    ∃ m, s.mode = some m ∧ rd ≠ 15#4 ∧ t = (s.writeReg m rd (s.mvaOp2 m o)).advance := by
  obtain ⟨m, hm, h⟩ := State.inMode_next h
  obtain ⟨h1, h⟩ := State.writing_next h
  cases h
  exact ⟨m, hm, h1, rfl⟩

theorem State.compare_next {s t : State} {status : Params → Word → Word → Word → Word} {rd : RegNum}
    {o : MoveOperand} (h : s.compare status rd o = .next t) :
    ∃ m, s.mode = some m ∧
      t = (s.set .cpsr (status s.params s.cpsr (s.readReg m rd) (s.moveOp2 m o))).advance := by
  obtain ⟨m, hm, h⟩ := State.inMode_next h
  cases h
  exact ⟨m, hm, rfl⟩

theorem State.branch_next {s t : State} {op : BranchOp} {d : Dest} (h : s.branch op d = .next t) :
    ∃ m, s.mode = some m ∧
      t = { s with
        pc := if branchTaken s.params.cpsrPos s.cpsr op then s.target m d else s.pc + 4#32 } := by
  obtain ⟨m, hm, h⟩ := State.inMode_next h
  refine ⟨m, hm, ?_⟩
  split at h <;> cases h <;> simp_all [State.advance]

theorem State.branchLink_next {s t : State} {d : Dest} (h : s.branchLink d = .next t) :
    ∃ m, s.mode = some m ∧
      t = { s.writeReg m 14#4 (s.pc + 4#32) with pc := s.target m d } := by
  obtain ⟨m, hm, h⟩ := State.inMode_next h
  cases h
  exact ⟨m, hm, rfl⟩

/-! ### The kernel mode instructions -/

theorem execKer_next {imm : BitVec 20} {s t : State} (h : execKer imm s = .next t) :
    s.mode = some .user ∧ s.params.banking = .banked ∧ s.flag s.params.cpsrPos.os = true ∧
      t = (s.set (.gpr 0) (extend s.params.kerImmExt imm)).enter .kernelCall (s.pc + 4#32) := by
  obtain ⟨m, hm, h⟩ := State.inMode_next h
  split at h
  · cases h
  · next hb =>
    split at h
    · cases h
    · next hu =>
      split at h
      · cases h
      · next hos =>
        cases h
        have hmu : m = .user := by simpa using hu
        exact ⟨hmu ▸ hm, hb, by simpa using hos, rfl⟩

theorem execSrg_next {value : Bool} {pos : BitVec 5} {s t : State}
    (h : execSrg value pos s = .next t) :
    ∃ m, s.mode = some m ∧ (s.params.privCheck = false ∨ m ≠ .user) ∧
      t = (s.set .cpsr (setStatusBit s.cpsr pos value)).advance := by
  obtain ⟨m, hm, hp, h⟩ := State.privileged_next h
  cases h
  exact ⟨m, hm, hp, rfl⟩

theorem execIoi_next {location : BitVec 20} {s t : State} (h : execIoi location s = .next t) :
    ∃ m, s.mode = some m ∧ (s.params.privCheck = false ∨ m ≠ .user) ∧
      s.params.ioDevice = .given ∧
      t = { (s.writeGeneralRegs m 0
              (Config.ioDevice location (s.generalRegs m) s.mem s.ioHistory).1.toList).advance with
            mem := memoryOf s.params.memMap
              (Config.ioDevice location (s.generalRegs m) s.mem s.ioHistory).2
            ioHistory := s.ioHistory ++
              [{ location := location, regs := s.generalRegs m, mem := s.mem }] } := by
  obtain ⟨m, hm, hp, h⟩ := State.privileged_next h
  split at h
  · cases h
  · next hd => cases h; exact ⟨m, hm, hp, hd, rfl⟩

theorem execRfi_next {imm : BitVec 20} {s t : State} (h : execRfi imm s = .next t) :
    (imm = 0#20 ∧ s.mode = some .kernel ∧ t = s.leave .kernelCall) ∨
      (imm = 1#20 ∧ s.mode = some .interrupt ∧ t = s.leave .timer) := by
  obtain ⟨m, hm, _, h⟩ := State.privileged_next h
  split at h
  · next hk => cases h; exact .inl ⟨hk.1, hk.2 ▸ hm, rfl⟩
  · split at h
    · next hi => cases h; exact .inr ⟨hi.1, hi.2 ▸ hm, rfl⟩
    · cases h

theorem execMkd_next {krd rm : RegNum} {s t : State} (h : execMkd krd rm s = .next t) :
    ∃ m, s.mode = some m ∧ (s.params.privCheck = false ∨ m ≠ .user) ∧
      krAccessible s.params krd = true ∧
      t = (s.set (kernelHome krd) (s.readReg m rm)).advance := by
  obtain ⟨m, hm, hp, h⟩ := State.privileged_next h
  split at h
  · next hk => cases h; exact ⟨m, hm, hp, hk, rfl⟩
  · cases h

theorem execMks_next {rd krm : RegNum} {s t : State} (h : execMks rd krm s = .next t) :
    ∃ m, s.mode = some m ∧ (s.params.privCheck = false ∨ m ≠ .user) ∧ rd ≠ 15#4 ∧
      krAccessible s.params krm = true ∧
      t = (s.writeReg m rd (s.get (kernelHome krm))).advance := by
  obtain ⟨m, hm, hp, h⟩ := State.privileged_next h
  obtain ⟨h1, h⟩ := State.writing_next h
  split at h
  · next hk => cases h; exact ⟨m, hm, hp, h1, hk, rfl⟩
  · cases h

/-! ### The step -/

/-- Everything a step that answers a next state can be. -/
theorem step_next {s t : State} (h : step s = .next t) :
    (s.takesTimer = true ∧ t = s.timerMove.takeTimer) ∨
      (s.takesTimer = false ∧ s.atEnd = true ∧ t = s) ∨
      (s.takesTimer = false ∧ s.atEnd = false ∧ ∃ w i, s.timerMove.fetch = .ok w ∧
        decodeWord s.params.layout w = .ok i ∧ exec i s.timerMove = .next t) := by
  unfold step at h
  split at h
  · next h1 => cases h; exact .inl ⟨h1, rfl⟩
  · next h1 =>
    refine .inr ?_
    split at h
    · next h2 => cases h; exact .inl ⟨by simpa using h1, h2, rfl⟩
    · next h2 =>
      refine .inr ⟨by simpa using h1, by simpa using h2, ?_⟩
      split at h
      · cases h
      · next w hw =>
        split at h
        · cases h
        · next i hi => exact ⟨w, i, hw, hi, h⟩

/-- The timer's move changes only the pending bit and the draw counter. -/
theorem State.timerMove_eq (s : State) :
    ∃ b n, s.timerMove = { s with timerPending := b, draws := n } := by
  unfold State.timerMove
  split
  · exact ⟨_, _, rfl⟩
  · exact ⟨s.timerPending, s.draws, rfl⟩

theorem State.timerMove_of_absent {s : State} (h : s.params.timerPresent = false) :
    s.timerMove = s := by
  simp [State.timerMove, h]

end Sys2Proof.Machine
end

