-- ==== Sys2Proof/Laws/PerInstr.lean ====
section
/-! SUPPORT. The statement made of every instruction, one lemma per constructor: the opcode byte of its
word is the one the card's grids give it (30_encoding.md R87 to R91). -/

namespace Sys2Proof.Laws

/-- The word of the instruction has the opcode byte of its row. -/
def OpcodeByte.Statement (i : Instr) : Prop :=
  opcodeField defaultLayout (encode i) = i.opcode

/-- Every instruction's word has its opcode byte under the default layout. -/
theorem opcodeByte_encode (i : Instr) : OpcodeByte.Statement i :=
  opcodeField_encodeWith (by decide) i

theorem OpcodeByte.ldrAbs (rd : RegNum) (addr : BitVec 20) :
    OpcodeByte.Statement (.ldrAbs rd addr) := opcodeByte_encode _

theorem OpcodeByte.ldrReg (rd rm : RegNum) :
    OpcodeByte.Statement (.ldrReg rd rm) := opcodeByte_encode _

theorem OpcodeByte.ldrOff (rd rm : RegNum) (imm : BitVec 16) :
    OpcodeByte.Statement (.ldrOff rd rm imm) := opcodeByte_encode _

theorem OpcodeByte.ldrIdx (rd rm rn : RegNum) :
    OpcodeByte.Statement (.ldrIdx rd rm rn) := opcodeByte_encode _

theorem OpcodeByte.ldrPreOff (rd rm : RegNum) (imm : BitVec 16) :
    OpcodeByte.Statement (.ldrPreOff rd rm imm) := opcodeByte_encode _

theorem OpcodeByte.ldrPreIdx (rd rm rn : RegNum) :
    OpcodeByte.Statement (.ldrPreIdx rd rm rn) := opcodeByte_encode _

theorem OpcodeByte.ldrPostOff (rd rm : RegNum) (imm : BitVec 16) :
    OpcodeByte.Statement (.ldrPostOff rd rm imm) := opcodeByte_encode _

theorem OpcodeByte.ldrPostIdx (rd rm rn : RegNum) :
    OpcodeByte.Statement (.ldrPostIdx rd rm rn) := opcodeByte_encode _

theorem OpcodeByte.ldrScaled (rd rm rn : RegNum) (imm : BitVec 12) :
    OpcodeByte.Statement (.ldrScaled rd rm rn imm) := opcodeByte_encode _

theorem OpcodeByte.ldbAbs (rd : RegNum) (addr : BitVec 20) :
    OpcodeByte.Statement (.ldbAbs rd addr) := opcodeByte_encode _

theorem OpcodeByte.ldbReg (rd rm : RegNum) :
    OpcodeByte.Statement (.ldbReg rd rm) := opcodeByte_encode _

theorem OpcodeByte.ldbOff (rd rm : RegNum) (imm : BitVec 16) :
    OpcodeByte.Statement (.ldbOff rd rm imm) := opcodeByte_encode _

theorem OpcodeByte.ldbIdx (rd rm rn : RegNum) :
    OpcodeByte.Statement (.ldbIdx rd rm rn) := opcodeByte_encode _

theorem OpcodeByte.ldbPreOff (rd rm : RegNum) (imm : BitVec 16) :
    OpcodeByte.Statement (.ldbPreOff rd rm imm) := opcodeByte_encode _

theorem OpcodeByte.ldbPreIdx (rd rm rn : RegNum) :
    OpcodeByte.Statement (.ldbPreIdx rd rm rn) := opcodeByte_encode _

theorem OpcodeByte.ldbPostOff (rd rm : RegNum) (imm : BitVec 16) :
    OpcodeByte.Statement (.ldbPostOff rd rm imm) := opcodeByte_encode _

theorem OpcodeByte.ldbPostIdx (rd rm rn : RegNum) :
    OpcodeByte.Statement (.ldbPostIdx rd rm rn) := opcodeByte_encode _

theorem OpcodeByte.ldbScaled (rd rm rn : RegNum) (imm : BitVec 12) :
    OpcodeByte.Statement (.ldbScaled rd rm rn imm) := opcodeByte_encode _

theorem OpcodeByte.strAbs (rd : RegNum) (addr : BitVec 20) :
    OpcodeByte.Statement (.strAbs rd addr) := opcodeByte_encode _

theorem OpcodeByte.strReg (rd rm : RegNum) :
    OpcodeByte.Statement (.strReg rd rm) := opcodeByte_encode _

theorem OpcodeByte.strOff (rd rm : RegNum) (imm : BitVec 16) :
    OpcodeByte.Statement (.strOff rd rm imm) := opcodeByte_encode _

theorem OpcodeByte.strIdx (rd rm rn : RegNum) :
    OpcodeByte.Statement (.strIdx rd rm rn) := opcodeByte_encode _

theorem OpcodeByte.strPreOff (rd rm : RegNum) (imm : BitVec 16) :
    OpcodeByte.Statement (.strPreOff rd rm imm) := opcodeByte_encode _

theorem OpcodeByte.strPreIdx (rd rm rn : RegNum) :
    OpcodeByte.Statement (.strPreIdx rd rm rn) := opcodeByte_encode _

theorem OpcodeByte.strPostOff (rd rm : RegNum) (imm : BitVec 16) :
    OpcodeByte.Statement (.strPostOff rd rm imm) := opcodeByte_encode _

theorem OpcodeByte.strPostIdx (rd rm rn : RegNum) :
    OpcodeByte.Statement (.strPostIdx rd rm rn) := opcodeByte_encode _

theorem OpcodeByte.strScaled (rd rm rn : RegNum) (imm : BitVec 12) :
    OpcodeByte.Statement (.strScaled rd rm rn imm) := opcodeByte_encode _

theorem OpcodeByte.stbAbs (rd : RegNum) (addr : BitVec 20) :
    OpcodeByte.Statement (.stbAbs rd addr) := opcodeByte_encode _

theorem OpcodeByte.stbReg (rd rm : RegNum) :
    OpcodeByte.Statement (.stbReg rd rm) := opcodeByte_encode _

theorem OpcodeByte.stbOff (rd rm : RegNum) (imm : BitVec 16) :
    OpcodeByte.Statement (.stbOff rd rm imm) := opcodeByte_encode _

theorem OpcodeByte.stbIdx (rd rm rn : RegNum) :
    OpcodeByte.Statement (.stbIdx rd rm rn) := opcodeByte_encode _

theorem OpcodeByte.stbPreOff (rd rm : RegNum) (imm : BitVec 16) :
    OpcodeByte.Statement (.stbPreOff rd rm imm) := opcodeByte_encode _

theorem OpcodeByte.stbPreIdx (rd rm rn : RegNum) :
    OpcodeByte.Statement (.stbPreIdx rd rm rn) := opcodeByte_encode _

theorem OpcodeByte.stbPostOff (rd rm : RegNum) (imm : BitVec 16) :
    OpcodeByte.Statement (.stbPostOff rd rm imm) := opcodeByte_encode _

theorem OpcodeByte.stbPostIdx (rd rm rn : RegNum) :
    OpcodeByte.Statement (.stbPostIdx rd rm rn) := opcodeByte_encode _

theorem OpcodeByte.stbScaled (rd rm rn : RegNum) (imm : BitVec 12) :
    OpcodeByte.Statement (.stbScaled rd rm rn imm) := opcodeByte_encode _

theorem OpcodeByte.addReg (rd rm rn : RegNum) :
    OpcodeByte.Statement (.addReg rd rm rn) := opcodeByte_encode _

theorem OpcodeByte.subReg (rd rm rn : RegNum) :
    OpcodeByte.Statement (.subReg rd rm rn) := opcodeByte_encode _

theorem OpcodeByte.mulReg (rd rm rn : RegNum) :
    OpcodeByte.Statement (.mulReg rd rm rn) := opcodeByte_encode _

theorem OpcodeByte.divReg (rd rm rn : RegNum) :
    OpcodeByte.Statement (.divReg rd rm rn) := opcodeByte_encode _

theorem OpcodeByte.modReg (rd rm rn : RegNum) :
    OpcodeByte.Statement (.modReg rd rm rn) := opcodeByte_encode _

theorem OpcodeByte.andReg (rd rm rn : RegNum) :
    OpcodeByte.Statement (.andReg rd rm rn) := opcodeByte_encode _

theorem OpcodeByte.orrReg (rd rm rn : RegNum) :
    OpcodeByte.Statement (.orrReg rd rm rn) := opcodeByte_encode _

theorem OpcodeByte.eorReg (rd rm rn : RegNum) :
    OpcodeByte.Statement (.eorReg rd rm rn) := opcodeByte_encode _

theorem OpcodeByte.adcReg (rd rm rn : RegNum) :
    OpcodeByte.Statement (.adcReg rd rm rn) := opcodeByte_encode _

theorem OpcodeByte.sbcReg (rd rm rn : RegNum) :
    OpcodeByte.Statement (.sbcReg rd rm rn) := opcodeByte_encode _

theorem OpcodeByte.adfReg (rd rm rn : RegNum) :
    OpcodeByte.Statement (.adfReg rd rm rn) := opcodeByte_encode _

theorem OpcodeByte.sufReg (rd rm rn : RegNum) :
    OpcodeByte.Statement (.sufReg rd rm rn) := opcodeByte_encode _

theorem OpcodeByte.mufReg (rd rm rn : RegNum) :
    OpcodeByte.Statement (.mufReg rd rm rn) := opcodeByte_encode _

theorem OpcodeByte.difReg (rd rm rn : RegNum) :
    OpcodeByte.Statement (.difReg rd rm rn) := opcodeByte_encode _

theorem OpcodeByte.addImm (rd rm : RegNum) (imm : BitVec 16) :
    OpcodeByte.Statement (.addImm rd rm imm) := opcodeByte_encode _

theorem OpcodeByte.subImm (rd rm : RegNum) (imm : BitVec 16) :
    OpcodeByte.Statement (.subImm rd rm imm) := opcodeByte_encode _

theorem OpcodeByte.mulImm (rd rm : RegNum) (imm : BitVec 16) :
    OpcodeByte.Statement (.mulImm rd rm imm) := opcodeByte_encode _

theorem OpcodeByte.divImm (rd rm : RegNum) (imm : BitVec 16) :
    OpcodeByte.Statement (.divImm rd rm imm) := opcodeByte_encode _

theorem OpcodeByte.modImm (rd rm : RegNum) (imm : BitVec 16) :
    OpcodeByte.Statement (.modImm rd rm imm) := opcodeByte_encode _

theorem OpcodeByte.andImm (rd rm : RegNum) (imm : BitVec 16) :
    OpcodeByte.Statement (.andImm rd rm imm) := opcodeByte_encode _

theorem OpcodeByte.orrImm (rd rm : RegNum) (imm : BitVec 16) :
    OpcodeByte.Statement (.orrImm rd rm imm) := opcodeByte_encode _

theorem OpcodeByte.eorImm (rd rm : RegNum) (imm : BitVec 16) :
    OpcodeByte.Statement (.eorImm rd rm imm) := opcodeByte_encode _

theorem OpcodeByte.adcImm (rd rm : RegNum) (imm : BitVec 16) :
    OpcodeByte.Statement (.adcImm rd rm imm) := opcodeByte_encode _

theorem OpcodeByte.sbcImm (rd rm : RegNum) (imm : BitVec 16) :
    OpcodeByte.Statement (.sbcImm rd rm imm) := opcodeByte_encode _

theorem OpcodeByte.adfImm (rd rm : RegNum) (imm : BitVec 16) :
    OpcodeByte.Statement (.adfImm rd rm imm) := opcodeByte_encode _

theorem OpcodeByte.sufImm (rd rm : RegNum) (imm : BitVec 16) :
    OpcodeByte.Statement (.sufImm rd rm imm) := opcodeByte_encode _

theorem OpcodeByte.mufImm (rd rm : RegNum) (imm : BitVec 16) :
    OpcodeByte.Statement (.mufImm rd rm imm) := opcodeByte_encode _

theorem OpcodeByte.difImm (rd rm : RegNum) (imm : BitVec 16) :
    OpcodeByte.Statement (.difImm rd rm imm) := opcodeByte_encode _

theorem OpcodeByte.movReg (rd rm : RegNum) :
    OpcodeByte.Statement (.movReg rd rm) := opcodeByte_encode _

theorem OpcodeByte.mvaReg (rd rm : RegNum) :
    OpcodeByte.Statement (.mvaReg rd rm) := opcodeByte_encode _

theorem OpcodeByte.cmpReg (rd rm : RegNum) :
    OpcodeByte.Statement (.cmpReg rd rm) := opcodeByte_encode _

theorem OpcodeByte.tstReg (rd rm : RegNum) :
    OpcodeByte.Statement (.tstReg rd rm) := opcodeByte_encode _

theorem OpcodeByte.teqReg (rd rm : RegNum) :
    OpcodeByte.Statement (.teqReg rd rm) := opcodeByte_encode _

theorem OpcodeByte.shfReg (rd rm : RegNum) :
    OpcodeByte.Statement (.shfReg rd rm) := opcodeByte_encode _

theorem OpcodeByte.shaReg (rd rm : RegNum) :
    OpcodeByte.Statement (.shaReg rd rm) := opcodeByte_encode _

theorem OpcodeByte.rotReg (rd rm : RegNum) :
    OpcodeByte.Statement (.rotReg rd rm) := opcodeByte_encode _

theorem OpcodeByte.oneReg (rd rm : RegNum) :
    OpcodeByte.Statement (.oneReg rd rm) := opcodeByte_encode _

theorem OpcodeByte.ftiReg (rd rm : RegNum) :
    OpcodeByte.Statement (.ftiReg rd rm) := opcodeByte_encode _

theorem OpcodeByte.itfReg (rd rm : RegNum) :
    OpcodeByte.Statement (.itfReg rd rm) := opcodeByte_encode _

theorem OpcodeByte.cmfReg (rd rm : RegNum) :
    OpcodeByte.Statement (.cmfReg rd rm) := opcodeByte_encode _

theorem OpcodeByte.movImm (rd : RegNum) (imm : BitVec 20) :
    OpcodeByte.Statement (.movImm rd imm) := opcodeByte_encode _

theorem OpcodeByte.mvaImm (rd : RegNum) (imm : BitVec 20) :
    OpcodeByte.Statement (.mvaImm rd imm) := opcodeByte_encode _

theorem OpcodeByte.cmpImm (rd : RegNum) (imm : BitVec 20) :
    OpcodeByte.Statement (.cmpImm rd imm) := opcodeByte_encode _

theorem OpcodeByte.tstImm (rd : RegNum) (imm : BitVec 20) :
    OpcodeByte.Statement (.tstImm rd imm) := opcodeByte_encode _

theorem OpcodeByte.teqImm (rd : RegNum) (imm : BitVec 20) :
    OpcodeByte.Statement (.teqImm rd imm) := opcodeByte_encode _

theorem OpcodeByte.shfImm (rd : RegNum) (imm : BitVec 20) :
    OpcodeByte.Statement (.shfImm rd imm) := opcodeByte_encode _

theorem OpcodeByte.shaImm (rd : RegNum) (imm : BitVec 20) :
    OpcodeByte.Statement (.shaImm rd imm) := opcodeByte_encode _

theorem OpcodeByte.rotImm (rd : RegNum) (imm : BitVec 20) :
    OpcodeByte.Statement (.rotImm rd imm) := opcodeByte_encode _

theorem OpcodeByte.oneImm (rd : RegNum) (imm : BitVec 20) :
    OpcodeByte.Statement (.oneImm rd imm) := opcodeByte_encode _

theorem OpcodeByte.ftiImm (rd : RegNum) (imm : BitVec 20) :
    OpcodeByte.Statement (.ftiImm rd imm) := opcodeByte_encode _

theorem OpcodeByte.itfImm (rd : RegNum) (imm : BitVec 20) :
    OpcodeByte.Statement (.itfImm rd imm) := opcodeByte_encode _

theorem OpcodeByte.cmfImm (rd : RegNum) (imm : BitVec 20) :
    OpcodeByte.Statement (.cmfImm rd imm) := opcodeByte_encode _

theorem OpcodeByte.balAbs (addr : BitVec 20) :
    OpcodeByte.Statement (.balAbs addr) := opcodeByte_encode _

theorem OpcodeByte.beqAbs (addr : BitVec 20) :
    OpcodeByte.Statement (.beqAbs addr) := opcodeByte_encode _

theorem OpcodeByte.bneAbs (addr : BitVec 20) :
    OpcodeByte.Statement (.bneAbs addr) := opcodeByte_encode _

theorem OpcodeByte.bltAbs (addr : BitVec 20) :
    OpcodeByte.Statement (.bltAbs addr) := opcodeByte_encode _

theorem OpcodeByte.bleAbs (addr : BitVec 20) :
    OpcodeByte.Statement (.bleAbs addr) := opcodeByte_encode _

theorem OpcodeByte.bgtAbs (addr : BitVec 20) :
    OpcodeByte.Statement (.bgtAbs addr) := opcodeByte_encode _

theorem OpcodeByte.bgeAbs (addr : BitVec 20) :
    OpcodeByte.Statement (.bgeAbs addr) := opcodeByte_encode _

theorem OpcodeByte.blrAbs (addr : BitVec 20) :
    OpcodeByte.Statement (.blrAbs addr) := opcodeByte_encode _

theorem OpcodeByte.balInd (rd : RegNum) :
    OpcodeByte.Statement (.balInd rd) := opcodeByte_encode _

theorem OpcodeByte.beqInd (rd : RegNum) :
    OpcodeByte.Statement (.beqInd rd) := opcodeByte_encode _

theorem OpcodeByte.bneInd (rd : RegNum) :
    OpcodeByte.Statement (.bneInd rd) := opcodeByte_encode _

theorem OpcodeByte.bltInd (rd : RegNum) :
    OpcodeByte.Statement (.bltInd rd) := opcodeByte_encode _

theorem OpcodeByte.bleInd (rd : RegNum) :
    OpcodeByte.Statement (.bleInd rd) := opcodeByte_encode _

theorem OpcodeByte.bgtInd (rd : RegNum) :
    OpcodeByte.Statement (.bgtInd rd) := opcodeByte_encode _

theorem OpcodeByte.bgeInd (rd : RegNum) :
    OpcodeByte.Statement (.bgeInd rd) := opcodeByte_encode _

theorem OpcodeByte.blrInd (rd : RegNum) :
    OpcodeByte.Statement (.blrInd rd) := opcodeByte_encode _

theorem OpcodeByte.balRel (rd : RegNum) (imm : BitVec 20) :
    OpcodeByte.Statement (.balRel rd imm) := opcodeByte_encode _

theorem OpcodeByte.beqRel (rd : RegNum) (imm : BitVec 20) :
    OpcodeByte.Statement (.beqRel rd imm) := opcodeByte_encode _

theorem OpcodeByte.bneRel (rd : RegNum) (imm : BitVec 20) :
    OpcodeByte.Statement (.bneRel rd imm) := opcodeByte_encode _

theorem OpcodeByte.bltRel (rd : RegNum) (imm : BitVec 20) :
    OpcodeByte.Statement (.bltRel rd imm) := opcodeByte_encode _

theorem OpcodeByte.bleRel (rd : RegNum) (imm : BitVec 20) :
    OpcodeByte.Statement (.bleRel rd imm) := opcodeByte_encode _

theorem OpcodeByte.bgtRel (rd : RegNum) (imm : BitVec 20) :
    OpcodeByte.Statement (.bgtRel rd imm) := opcodeByte_encode _

theorem OpcodeByte.bgeRel (rd : RegNum) (imm : BitVec 20) :
    OpcodeByte.Statement (.bgeRel rd imm) := opcodeByte_encode _

theorem OpcodeByte.blrRel (rd : RegNum) (imm : BitVec 20) :
    OpcodeByte.Statement (.blrRel rd imm) := opcodeByte_encode _

theorem OpcodeByte.ker (imm : BitVec 20) :
    OpcodeByte.Statement (.ker imm) := opcodeByte_encode _

theorem OpcodeByte.srg (value : Bool) (pos : BitVec 5) :
    OpcodeByte.Statement (.srg value pos) := opcodeByte_encode _

theorem OpcodeByte.ioi (location : BitVec 20) :
    OpcodeByte.Statement (.ioi location) := opcodeByte_encode _

theorem OpcodeByte.rfi (imm : BitVec 20) :
    OpcodeByte.Statement (.rfi imm) := opcodeByte_encode _

theorem OpcodeByte.mkd (krd rm : RegNum) :
    OpcodeByte.Statement (.mkd krd rm) := opcodeByte_encode _

theorem OpcodeByte.mks (rd krm : RegNum) :
    OpcodeByte.Statement (.mks rd krm) := opcodeByte_encode _

end Sys2Proof.Laws
end

