-- ==== Sys2Proof/Tests/Slice0.lean ====
section
/-! SUPPORT. Tests: the well-formedness checks, the decoding of every constructor's word, the vectors of
95_test_vectors.md one step each, and a witness for the hypotheses of each statement. -/

namespace Sys2Proof.Tests

open Sys2Proof.Machine

/-! ### Helpers -/

/-- A machine under the default parameters with this pc, CPSR, registers and words in memory. -/
def machine (pc cpsr : Word) (regs : List (Fin 15 × Word)) (words : List (Nat × Word)) : State :=
  { State.reset with
    pc := pc
    cpsr := cpsr
    regs := regs.foldl (fun v r => v.set r.1 r.2) (Vector.replicate 15 0)
    mem := words.foldl (fun mem w => mem.writeList w.1 (bytesOfWord .little w.2)) [] }

/-- The machine under other parameters. -/
def withParams (s : State) (p : Params) : State := { s with params := p }

/-- One step of the machine with this word at its pc. -/
def runs (s : State) (w : Nat) : Result := step (s.withFetchWord 32 w)

/-- Registers after a step that answers a next state. -/
def gets (r : Result) (names : List Register) : Option (List Word) :=
  match r with
  | .next t => some (names.map t.get)
  | .fault _ => none
  | .refused _ => none

/-- A word of memory after a step that answers a next state. -/
def wordAfter (r : Result) (a : Nat) : Option Word :=
  match r with
  | .next t => t.word? a
  | .fault _ => none
  | .refused _ => none

/-- The fault or refusal of a step that answers one. -/
def stops (r : Result) : Option (Fault ⊕ Refusal) :=
  match r with
  | .next _ => none
  | .fault f => some (.inl f)
  | .refused f => some (.inr f)

/-- Each word decodes to the instruction beside it. -/
def decodesTo (rows : List (Nat × Instr)) : Bool :=
  rows.all fun row => decodeTableWord 32 row.1 == some row.2

/-! ### Well-formedness: one ill-formed term for each check -/

theorem test_wf_destination_pc : Instr.wellFormed (.addReg 15#4 1#4 2#4) = false := by decide

theorem test_wf_base_pc : Instr.wellFormed (.strPreOff 1#4 15#4 4#16) = false := by decide

theorem test_wf_load_base_is_rd : Instr.wellFormed (.ldrPostIdx 1#4 1#4 2#4) = false := by decide

theorem test_wf_store_base_is_rd : Instr.wellFormed (.stbPreIdx 3#4 3#4 2#4) = false := by decide

theorem test_wf_float_immediate :
    Instr.wellFormed (.adfImm 1#4 2#4 0#16) = false ∧ Instr.wellFormed (.cmfImm 1#4 0#20) = false := by
  decide

theorem test_wf_rfi_operand : Instr.wellFormed (.rfi 2#20) = false := by decide

/-- What R125 does not refuse: rd = rm without writeback, rn = rm, rd = rn. -/
theorem test_wf_admitted : Instr.wellFormed (.ldrReg 1#4 1#4) = true ∧
    Instr.wellFormed (.ldrPostIdx 2#4 1#4 1#4) = true ∧
    Instr.wellFormed (.ldrPreIdx 2#4 1#4 2#4) = true ∧ Instr.wellFormed (.rfi 1#20) = true ∧
    Instr.wellFormed (.strReg 15#4 1#4) = true := by decide

/-! ### Decoding: every constructor's word, its bits written from its row of `opcode_table.json`
(rd 5, rm 10, rn 3, imm12 0x8bc, imm16 0x9abc, imm20 0x8765a) -/

theorem test_decode_ldr : decodesTo
    [(0x1058765a, .ldrAbs 5#4 0x8765a#20),
      (0x115a0000, .ldrReg 5#4 10#4),
      (0x125a9abc, .ldrOff 5#4 10#4 0x9abc#16),
      (0x135a3000, .ldrIdx 5#4 10#4 3#4),
      (0x145a9abc, .ldrPreOff 5#4 10#4 0x9abc#16),
      (0x155a3000, .ldrPreIdx 5#4 10#4 3#4),
      (0x165a9abc, .ldrPostOff 5#4 10#4 0x9abc#16),
      (0x175a3000, .ldrPostIdx 5#4 10#4 3#4),
      (0x185a38bc, .ldrScaled 5#4 10#4 3#4 0x8bc#12)] = true := by decide

theorem test_decode_ldb : decodesTo
    [(0x2058765a, .ldbAbs 5#4 0x8765a#20),
      (0x215a0000, .ldbReg 5#4 10#4),
      (0x225a9abc, .ldbOff 5#4 10#4 0x9abc#16),
      (0x235a3000, .ldbIdx 5#4 10#4 3#4),
      (0x245a9abc, .ldbPreOff 5#4 10#4 0x9abc#16),
      (0x255a3000, .ldbPreIdx 5#4 10#4 3#4),
      (0x265a9abc, .ldbPostOff 5#4 10#4 0x9abc#16),
      (0x275a3000, .ldbPostIdx 5#4 10#4 3#4),
      (0x285a38bc, .ldbScaled 5#4 10#4 3#4 0x8bc#12)] = true := by decide

theorem test_decode_str : decodesTo
    [(0x3058765a, .strAbs 5#4 0x8765a#20),
      (0x315a0000, .strReg 5#4 10#4),
      (0x325a9abc, .strOff 5#4 10#4 0x9abc#16),
      (0x335a3000, .strIdx 5#4 10#4 3#4),
      (0x345a9abc, .strPreOff 5#4 10#4 0x9abc#16),
      (0x355a3000, .strPreIdx 5#4 10#4 3#4),
      (0x365a9abc, .strPostOff 5#4 10#4 0x9abc#16),
      (0x375a3000, .strPostIdx 5#4 10#4 3#4),
      (0x385a38bc, .strScaled 5#4 10#4 3#4 0x8bc#12)] = true := by decide

theorem test_decode_stb : decodesTo
    [(0x4058765a, .stbAbs 5#4 0x8765a#20),
      (0x415a0000, .stbReg 5#4 10#4),
      (0x425a9abc, .stbOff 5#4 10#4 0x9abc#16),
      (0x435a3000, .stbIdx 5#4 10#4 3#4),
      (0x445a9abc, .stbPreOff 5#4 10#4 0x9abc#16),
      (0x455a3000, .stbPreIdx 5#4 10#4 3#4),
      (0x465a9abc, .stbPostOff 5#4 10#4 0x9abc#16),
      (0x475a3000, .stbPostIdx 5#4 10#4 3#4),
      (0x485a38bc, .stbScaled 5#4 10#4 3#4 0x8bc#12)] = true := by decide

theorem test_decode_arith_register : decodesTo
    [(0x505a3000, .addReg 5#4 10#4 3#4),
      (0x515a3000, .subReg 5#4 10#4 3#4),
      (0x525a3000, .mulReg 5#4 10#4 3#4),
      (0x535a3000, .divReg 5#4 10#4 3#4),
      (0x545a3000, .modReg 5#4 10#4 3#4),
      (0x555a3000, .andReg 5#4 10#4 3#4),
      (0x565a3000, .orrReg 5#4 10#4 3#4),
      (0x575a3000, .eorReg 5#4 10#4 3#4),
      (0x585a3000, .adcReg 5#4 10#4 3#4),
      (0x595a3000, .sbcReg 5#4 10#4 3#4),
      (0x5a5a3000, .adfReg 5#4 10#4 3#4),
      (0x5b5a3000, .sufReg 5#4 10#4 3#4),
      (0x5c5a3000, .mufReg 5#4 10#4 3#4),
      (0x5d5a3000, .difReg 5#4 10#4 3#4)] = true := by decide

theorem test_decode_arith_immediate : decodesTo
    [(0x605a9abc, .addImm 5#4 10#4 0x9abc#16),
      (0x615a9abc, .subImm 5#4 10#4 0x9abc#16),
      (0x625a9abc, .mulImm 5#4 10#4 0x9abc#16),
      (0x635a9abc, .divImm 5#4 10#4 0x9abc#16),
      (0x645a9abc, .modImm 5#4 10#4 0x9abc#16),
      (0x655a9abc, .andImm 5#4 10#4 0x9abc#16),
      (0x665a9abc, .orrImm 5#4 10#4 0x9abc#16),
      (0x675a9abc, .eorImm 5#4 10#4 0x9abc#16),
      (0x685a9abc, .adcImm 5#4 10#4 0x9abc#16),
      (0x695a9abc, .sbcImm 5#4 10#4 0x9abc#16),
      (0x6a5a9abc, .adfImm 5#4 10#4 0x9abc#16),
      (0x6b5a9abc, .sufImm 5#4 10#4 0x9abc#16),
      (0x6c5a9abc, .mufImm 5#4 10#4 0x9abc#16),
      (0x6d5a9abc, .difImm 5#4 10#4 0x9abc#16)] = true := by decide

theorem test_decode_move_register : decodesTo
    [(0x705affff, .movReg 5#4 10#4),
      (0x715a0000, .mvaReg 5#4 10#4),
      (0x725a0000, .cmpReg 5#4 10#4),
      (0x735a0000, .tstReg 5#4 10#4),
      (0x745a0000, .teqReg 5#4 10#4),
      (0x755a0000, .shfReg 5#4 10#4),
      (0x765a0000, .shaReg 5#4 10#4),
      (0x775a0000, .rotReg 5#4 10#4),
      (0x785a0000, .oneReg 5#4 10#4),
      (0x795a0000, .ftiReg 5#4 10#4),
      (0x7a5a0000, .itfReg 5#4 10#4),
      (0x7b5a0000, .cmfReg 5#4 10#4)] = true := by decide

theorem test_decode_move_immediate : decodesTo
    [(0x8058765a, .movImm 5#4 0x8765a#20),
      (0x8158765a, .mvaImm 5#4 0x8765a#20),
      (0x8258765a, .cmpImm 5#4 0x8765a#20),
      (0x8358765a, .tstImm 5#4 0x8765a#20),
      (0x8458765a, .teqImm 5#4 0x8765a#20),
      (0x8558765a, .shfImm 5#4 0x8765a#20),
      (0x8658765a, .shaImm 5#4 0x8765a#20),
      (0x8758765a, .rotImm 5#4 0x8765a#20),
      (0x8858765a, .oneImm 5#4 0x8765a#20),
      (0x8958765a, .ftiImm 5#4 0x8765a#20),
      (0x8a58765a, .itfImm 5#4 0x8765a#20),
      (0x8b58765a, .cmfImm 5#4 0x8765a#20)] = true := by decide

theorem test_decode_branch_address : decodesTo
    [(0x9058765a, .balAbs 0x8765a#20),
      (0x9158765a, .beqAbs 0x8765a#20),
      (0x9258765a, .bneAbs 0x8765a#20),
      (0x9358765a, .bltAbs 0x8765a#20),
      (0x9458765a, .bleAbs 0x8765a#20),
      (0x9558765a, .bgtAbs 0x8765a#20),
      (0x9658765a, .bgeAbs 0x8765a#20),
      (0x9758765a, .blrAbs 0x8765a#20)] = true := by decide

theorem test_decode_branch_register : decodesTo
    [(0xa058765a, .balInd 5#4),
      (0xa158765a, .beqInd 5#4),
      (0xa258765a, .bneInd 5#4),
      (0xa358765a, .bltInd 5#4),
      (0xa458765a, .bleInd 5#4),
      (0xa558765a, .bgtInd 5#4),
      (0xa658765a, .bgeInd 5#4),
      (0xa758765a, .blrInd 5#4)] = true := by decide

theorem test_decode_branch_relative : decodesTo
    [(0xb058765a, .balRel 5#4 0x8765a#20),
      (0xb158765a, .beqRel 5#4 0x8765a#20),
      (0xb258765a, .bneRel 5#4 0x8765a#20),
      (0xb358765a, .bltRel 5#4 0x8765a#20),
      (0xb458765a, .bleRel 5#4 0x8765a#20),
      (0xb558765a, .bgtRel 5#4 0x8765a#20),
      (0xb658765a, .bgeRel 5#4 0x8765a#20),
      (0xb758765a, .blrRel 5#4 0x8765a#20)] = true := by decide

theorem test_decode_kernel : decodesTo
    [(0xc0f8765a, .ker 0x8765a#20),
      (0xc100003d, .srg true 29#5),
      (0xc208765a, .ioi 0x8765a#20),
      (0xc308765a, .rfi 0x8765a#20),
      (0xc45affff, .mkd 5#4 10#4),
      (0xc55a0000, .mks 5#4 10#4)] = true := by decide

/-- R97: the first and the last of each range of illegal opcode bytes, the words of all zeros and all ones
among them. -/
theorem test_decode_illegal :
    ([0x00, 0x0f, 0x19, 0x1f, 0x29, 0x2f, 0x39, 0x3f, 0x49, 0x4f, 0x5e, 0x5f, 0x6e, 0x6f, 0x7c, 0x7f,
      0x8c, 0x8f, 0x98, 0x9f, 0xa8, 0xaf, 0xb8, 0xbf, 0xc6, 0xff].all fun op =>
        decodeTableWord 32 (op * 2 ^ 24) == none && decodeTableWord 32 (op * 2 ^ 24 + 0xffffff) == none) =
      true := by decide

/-! ### Load and store: the vectors LS of 95_test_vectors.md section 2.1 -/

theorem test_ls1_ldr_abs :
    gets (runs (machine 0x200#32 0x08000000#32 [] [(0x100, 5#32)]) 0x10000100)
      [.gpr 0, .pc] = some [5#32, 0x204#32] := by decide

theorem test_ls2_ldr_reg :
    gets (runs (machine 0x100#32 0x08000000#32 [(1, 0x1000#32)] [(0x1000, 0x77#32)]) 0x11210000)
      [.gpr 2, .pc] = some [0x77#32, 0x104#32] := by decide

theorem test_ls3_ldr_off :
    gets (runs (machine 0x100#32 0x08000000#32 [(1, 0x1008#32)] [(0x1004, 0xdeadbeef#32)]) 0x1221fffc)
      [.gpr 2, .gpr 1] = some [0xdeadbeef#32, 0x1008#32] := by decide

theorem test_ls4_ldr_idx :
    gets (runs (machine 0x100#32 0x08000000#32 [(1, 0x1000#32), (3, 0x10#32)]
      [(0x1010, 0x11111111#32)]) 0x13213000)
      [.gpr 2, .gpr 1] = some [0x11111111#32, 0x1000#32] := by decide

theorem test_ls5_ldr_preOff :
    gets (runs (machine 0x100#32 0x08000000#32 [(1, 0x1000#32)] [(0x1008, 0x22222222#32)]) 0x14210008)
      [.gpr 2, .gpr 1] = some [0x22222222#32, 0x1008#32] := by decide

theorem test_ls6_str_preIdx :
    let r := runs (machine 0x100#32 0x08000000#32 [(1, 0x1000#32), (2, 0xcafef00d#32), (3, 0xfffffffc#32)]
      []) 0x35213000
    gets r [.gpr 1, .gpr 2] = some [0xffc#32, 0xcafef00d#32] ∧
      wordAfter r 0xffc = some 0xcafef00d#32 := by decide

theorem test_ls7_ldr_postOff :
    gets (runs (machine 0x100#32 0x08000000#32 [(1, 0x1008#32)] [(0x1008, 0x33333333#32)]) 0x1621fffc)
      [.gpr 2, .gpr 1] = some [0x33333333#32, 0x1004#32] := by decide

theorem test_ls8_ldb_postOff :
    gets (runs (machine 0x100#32 0x08000000#32 [(1, 0x2000#32)] [(0x2000, 0xffffff80#32)]) 0x26210001)
      [.gpr 2, .gpr 1] = some [0x80#32, 0x2001#32] := by decide

theorem test_ls9_stb_postIdx :
    let r := runs (machine 0x100#32 0x08000000#32 [(1, 0x2000#32), (2, 0x12345678#32), (3, 2#32)]
      [(0x2000, 0xaabbccdd#32)]) 0x47213000
    gets r [.gpr 1] = some [0x2002#32] ∧ wordAfter r 0x2000 = some 0xaabbcc78#32 := by decide

theorem test_ls10_ldr_scaled :
    gets (runs (machine 0x100#32 0x08000000#32 [(1, 0x1000#32), (3, 5#32)]
      [(0x1014, 0x44444444#32)]) 0x18213002)
      [.gpr 2] = some [0x44444444#32] := by decide

theorem test_ls11_ldr_scaled_right :
    gets (runs (machine 0x100#32 0x08000000#32 [(1, 0x1000#32), (3, 8#32)]
      [(0x1004, 0x55555555#32)]) 0x18213fff)
      [.gpr 2] = some [0x55555555#32] := by decide

theorem test_ls12_ldr_label :
    gets (runs (machine 0x200#32 0x08000000#32 [] [(0x1f0, 0x99#32)]) 0x120ffff0)
      [.gpr 0, .pc] = some [0x99#32, 0x204#32] := by decide

theorem test_ls13_ldr_own_base :
    gets (runs (machine 0x100#32 0x08000000#32 [(1, 0x1000#32)] [(0x1000, 0x77#32)]) 0x11110000)
      [.gpr 1] = some [0x77#32] := by decide

theorem test_ls14_ldr_base_is_dest :
    stops (runs (machine 0x100#32 0x08000000#32 [(1, 0x1000#32)]
      []) 0x14110004)
      = some (.inr (.loadBaseEqualsDest 0x100#32)) := by decide

theorem test_ls15_ldr_misaligned :
    stops (runs (machine 0x100#32 0x08000000#32 [(1, 0x1002#32)]
      []) 0x11210000)
      = some (.inl (.misaligned 0x1002#32 0x100#32)) := by decide

theorem test_ls16_ldr_pc :
    stops (runs (machine 0x100#32 0x08000000#32 [(1, 0x1000#32)]
      []) 0x11f10000)
      = some (.inr (.writeToPc 0x100#32)) := by decide

theorem test_ls17_ldb_little :
    gets (runs (machine 0x100#32 0x08000000#32 [(1, 0x1001#32)] [(0x1000, 0x11223380#32)]) 0x21210000)
      [.gpr 2] = some [0x33#32] := by decide

theorem test_ls18_stb_little :
    let r := runs (machine 0x100#32 0x08000000#32 [(1, 0x1002#32), (2, 0x123456ab#32)]
      [(0x1000, 0#32)]) 0x41210000
    gets r [] = some [] ∧ wordAfter r 0x1000 = some 0x00ab0000#32 := by decide

theorem test_ls19_ldb_sign :
    gets (runs (withParams (machine 0x100#32 0x08000000#32 [(1, 0x2000#32)]
      [(0x2000, 0x80#32)]) { defaultParams with ldbExt := .sign }) 0x21210000)
      [.gpr 2] = some [0xffffff80#32] := by decide

theorem test_ls20_str_pc :
    let r := runs (machine 0x100#32 0x08000000#32 [(1, 0x1000#32)] []) 0x31f10000
    gets r [.gpr 1] = some [0x1000#32] ∧ wordAfter r 0x1000 = some 0x100#32 := by decide

/-- R58: the word reads back under either order. -/
theorem test_str_big_then_ldb :
    let r := runs (withParams (machine 0x100#32 0x08000000#32 [(1, 0x1000#32), (0, 0x11223344#32)]
      []) { defaultParams with byteOrder := .big }) 0x31010000
    gets r [.pc] = some [0x104#32] ∧ wordAfter r 0x1000 = some 0x11223344#32 := by decide

/-- P4: under big the byte at the lowest address is the most significant one. -/
theorem test_p4_big_bytes : bytesOfWord .big 0x11223344#32 = [0x11#8, 0x22#8, 0x33#8, 0x44#8] ∧
    bytesOfWord .little 0x11223344#32 = [0x44#8, 0x33#8, 0x22#8, 0x11#8] := by decide

/-- R67: the effective address wraps to the address of the instruction itself. -/
theorem test_ldr_wraps :
    gets (runs (machine 0x100#32 0x08000000#32 [(1, 0xfffffffc#32), (3, 0x104#32)]
      [(0x100, 0x13213000#32)]) 0x13213000)
      [.gpr 2] = some [0x13213000#32] := by decide

/-- R244: a byte that holds no value. -/
theorem test_ldr_unwritten :
    stops (runs (machine 0x100#32 0x08000000#32 [(1, 0x1000#32)]
      []) 0x11210000)
      = some (.inl (.accessFault 0x1000#32 0x100#32)) := by decide

/-- R244: an address outside `MemMap`. -/
theorem test_str_outside_memMap :
    stops (runs (withParams (machine 0x100#32 0x08000000#32 [(1, 0x1000#32)]
      []) { defaultParams with memMap := [⟨0x100, 4⟩] }) 0x31210000)
      = some (.inl (.accessFault 0x1000#32 0x100#32)) := by decide

/-! ### Arithmetic and logic: the vectors AL of section 2.2 -/

theorem test_al1_add :
    gets (runs (machine 0x100#32 0x08000000#32 [(1, 0xffffffff#32), (2, 1#32)] []) 0x50312000)
      [.gpr 3, .cpsr] = some [0#32, 0x08000000#32] := by decide

theorem test_al2_add :
    gets (runs (machine 0x100#32 0x08000000#32 [(1, 0x7fffffff#32), (2, 1#32)] []) 0x50312000)
      [.gpr 3, .cpsr] = some [0x80000000#32, 0x08000000#32] := by decide

theorem test_al3_add_imm :
    gets (runs (machine 0x100#32 0x08000000#32 [(0, 1#32)] []) 0x6000fffe)
      [.gpr 0] = some [0xffffffff#32] := by decide

theorem test_al4_sub :
    gets (runs (machine 0x100#32 0x08000000#32 [(1, 3#32), (2, 5#32)] []) 0x51312000)
      [.gpr 3, .cpsr] = some [0xfffffffe#32, 0x08000000#32] := by decide

theorem test_al5_sub_imm :
    gets (runs (machine 0x100#32 0x08000000#32 [(0, 5#32)] []) 0x6100ffff)
      [.gpr 0] = some [6#32] := by decide

theorem test_al6_mul :
    gets (runs (machine 0x100#32 0x08000000#32 [(1, 0x12345678#32), (2, 0x9abcdef0#32)] []) 0x52312000)
      [.gpr 3, .cpsr] = some [0x242d2080#32, 0x08000000#32] := by decide

theorem test_al9_mul_imm :
    gets (runs (machine 0x100#32 0x08000000#32 [(0, 2#32)] []) 0x62008000)
      [.gpr 0] = some [0xffff0000#32] := by decide

theorem test_al11_div :
    gets (runs (machine 0x100#32 0x08000000#32 [(1, 0xfffffff9#32), (2, 2#32)] []) 0x53312000)
      [.gpr 3, .cpsr] = some [0xfffffffd#32, 0x08000000#32] := by decide

theorem test_al15_div :
    gets (runs (machine 0x100#32 0x08000000#32 [(1, 0x80000000#32), (2, 0xffffffff#32)] []) 0x53312000)
      [.gpr 3, .cpsr] = some [0x80000000#32, 0x08000000#32] := by decide

theorem test_al16_div_zero :
    stops (runs (machine 0x100#32 0x08000000#32 [(1, 7#32)]
      []) 0x53312000)
      = some (.inl (.divideByZero 0x100#32)) := by decide

/-- AL12 in the immediate form. -/
theorem test_div_imm :
    gets (runs (machine 0x100#32 0x08000000#32 [(1, 7#32)] []) 0x6331fffe)
      [.gpr 3] = some [0xfffffffd#32] := by decide

theorem test_al17_mod :
    gets (runs (machine 0x100#32 0x08000000#32 [(1, 0xfffffff9#32), (2, 2#32)] []) 0x54312000)
      [.gpr 3, .cpsr] = some [0xffffffff#32, 0x08000000#32] := by decide

/-- AL17 in the immediate form. -/
theorem test_mod_imm :
    gets (runs (machine 0x100#32 0x08000000#32 [(1, 7#32)] []) 0x6431fffe)
      [.gpr 3] = some [1#32] := by decide

theorem test_al19_and :
    gets (runs (machine 0x100#32 0x08000000#32 [(1, 0xf0f0f0f0#32), (2, 0x0ff00ff0#32)] []) 0x55312000)
      [.gpr 3, .cpsr] = some [0x00f000f0#32, 0x08000000#32] := by decide

theorem test_al21_and_imm :
    gets (runs (machine 0x100#32 0x08000000#32 [(0, 0x12345678#32)] []) 0x6500ffff)
      [.gpr 0] = some [0x12345678#32] := by decide

theorem test_al21_and_imm_zero :
    gets (runs (withParams (machine 0x100#32 0x08000000#32 [(0, 0x12345678#32)]
      []) { defaultParams with arithImm16Ext := .zero }) 0x6500ffff)
      [.gpr 0] = some [0x5678#32] := by decide

theorem test_al22_orr :
    gets (runs (machine 0x100#32 0x08000000#32 [(1, 0xf0f0f0f0#32), (2, 0x0ff00ff0#32)] []) 0x56312000)
      [.gpr 3, .cpsr] = some [0xfff0fff0#32, 0x08000000#32] := by decide

/-- P4. -/
theorem test_orr_imm :
    gets (runs (machine 0x100#32 0x08000000#32 [(0, 0x11223000#32)] []) 0x66000344)
      [.gpr 0] = some [0x11223344#32] := by decide

theorem test_al23_eor :
    gets (runs (machine 0x100#32 0x08000000#32 [(1, 0xf0f0f0f0#32), (2, 0x0ff00ff0#32)] []) 0x57312000)
      [.gpr 3, .cpsr] = some [0xff00ff00#32, 0x08000000#32] := by decide

/-- R147 with the sign-extended op2. -/
theorem test_eor_imm :
    gets (runs (machine 0x100#32 0x08000000#32 [(1, 0x0000ffff#32)] []) 0x6731ffff)
      [.gpr 3] = some [0xffff0000#32] := by decide

theorem test_al26_adc :
    gets (runs (machine 0x100#32 0x28000000#32 [(1, 5#32), (2, 3#32)] []) 0x58312000)
      [.gpr 3, .cpsr] = some [9#32, 0x28000000#32] := by decide

/-- AL25 in the immediate form. -/
theorem test_al25_adc_imm :
    gets (runs (machine 0x100#32 0x08000000#32 [(1, 5#32)] []) 0x68310003)
      [.gpr 3] = some [8#32] := by decide

theorem test_al28_sbc :
    gets (runs (machine 0x100#32 0x28000000#32 [(1, 5#32), (2, 3#32)] []) 0x59312000)
      [.gpr 3, .cpsr] = some [2#32, 0x28000000#32] := by decide

theorem test_al29_sbc_plain :
    gets (runs (withParams (machine 0x100#32 0x08000000#32 [(1, 5#32), (2, 3#32)]
      []) { defaultParams with sbcBorrow := .plain }) 0x59312000)
      [.gpr 3, .cpsr] = some [2#32, 0x08000000#32] := by decide

/-- AL30 in the immediate form. -/
theorem test_al30_sbc_imm :
    gets (runs (machine 0x100#32 0x08000000#32 [] []) 0x69310000)
      [.gpr 3] = some [0xffffffff#32] := by decide

theorem test_al32_adf_imm :
    stops (runs (machine 0x100#32 0x08000000#32 []
      []) 0x6a310001)
      = some (.inr (.floatImmediate 0x100#32)) := by decide

theorem test_al32_suf_imm :
    stops (runs (machine 0x100#32 0x08000000#32 []
      []) 0x6b310001)
      = some (.inr (.floatImmediate 0x100#32)) := by decide

theorem test_al32_muf_imm :
    stops (runs (machine 0x100#32 0x08000000#32 []
      []) 0x6c310001)
      = some (.inr (.floatImmediate 0x100#32)) := by decide

theorem test_al32_dif_imm :
    stops (runs (machine 0x100#32 0x08000000#32 []
      []) 0x6d310001)
      = some (.inr (.floatImmediate 0x100#32)) := by decide

theorem test_al33_add_pc :
    stops (runs (machine 0x100#32 0x08000000#32 []
      []) 0x50f12000)
      = some (.inr (.writeToPc 0x100#32)) := by decide

theorem test_al34_add_reads_pc :
    gets (runs (machine 0x100#32 0x08000000#32 [(2, 8#32)] []) 0x503f2000)
      [.gpr 3] = some [0x108#32] := by decide

theorem test_al35_illegal :
    stops (runs (machine 0x100#32 0x08000000#32 []
      []) 0x5e000000)
      = some (.inl (.illegalInstruction 0x5e000000#32 0x100#32)) := by decide

/-- AL31 and MC22 to MC24: the results are the uninterpreted functions'. -/
theorem test_al31_float :
    let s := machine 0x100#32 0x08000000#32 [(1, 7#32), (2, 9#32)] []
    gets (exec (.adfReg 3#4 1#4 2#4) s) [.gpr 3] = some [Config.fAdd 7#32 9#32] ∧
    gets (exec (.sufReg 3#4 1#4 2#4) s) [.gpr 3] = some [Config.fSub 7#32 9#32] ∧
    gets (exec (.mufReg 3#4 1#4 2#4) s) [.gpr 3] = some [Config.fMul 7#32 9#32] ∧
    gets (exec (.difReg 3#4 1#4 2#4) s) [.gpr 3] = some [Config.fDiv 7#32 9#32] ∧
    gets (exec (.ftiReg 1#4 2#4) s) [.gpr 1] = some [Config.fToI 9#32] ∧
    gets (exec (.itfReg 1#4 2#4) s) [.gpr 1] = some [Config.iToF 9#32] ∧
    gets (exec (.itfImm 1#4 3#20) s) [.gpr 1] = some [Config.iToF 3#32] := by
  refine ⟨rfl, rfl, rfl, rfl, rfl, rfl, rfl⟩

/-! ### Move, compare, shift: the vectors MC of section 2.3 -/

theorem test_mc1_mov_imm :
    gets (runs (machine 0x100#32 0x08000000#32 [] []) 0x801fffff)
      [.gpr 1] = some [0xffffffff#32] := by decide

theorem test_mc3_mva_imm :
    gets (runs (machine 0x100#32 0x08000000#32 [] []) 0x81180000)
      [.gpr 1] = some [0x00080000#32] := by decide

theorem test_mc5_mov_reg :
    gets (runs (machine 0x100#32 0x08000000#32 [(2, 0x89abcdef#32)] []) 0x70120000)
      [.gpr 1, .cpsr] = some [0x89abcdef#32, 0x08000000#32] := by decide

/-- R171: the register form does what `mov` does. -/
theorem test_mva_reg :
    gets (runs (machine 0x100#32 0x08000000#32 [(2, 0x89abcdef#32)] []) 0x71120000)
      [.gpr 1] = some [0x89abcdef#32] := by decide

theorem test_mc6_cmp_imm :
    gets (runs (machine 0x100#32 0x08000000#32 [] []) 0x82000000)
      [.cpsr] = some [0x48000000#32] := by decide

theorem test_mc9_cmp_imm :
    gets (runs (machine 0x100#32 0x08000000#32 [(0, 3#32)] []) 0x82000005)
      [.cpsr, .gpr 0] = some [0x88000000#32, 3#32] := by decide

theorem test_mc10_cmp_cv :
    gets (runs (withParams (machine 0x100#32 0x08000000#32 [(0, 0x80000000#32)]
      []) { defaultParams with cmpWritesCV := true }) 0x82000001)
      [.cpsr] = some [0x38000000#32] := by decide

theorem test_mc11_cmp_reg :
    gets (runs (machine 0x100#32 0x08000000#32 [(1, 9#32), (2, 9#32)] []) 0x72120000)
      [.cpsr, .gpr 1] = some [0x48000000#32, 9#32] := by decide

theorem test_mc12_tst_imm :
    gets (runs (machine 0x100#32 0x08000000#32 [(1, 6#32)] []) 0x83100001)
      [.cpsr] = some [0x48000000#32] := by decide

/-- MC13 in the register form. -/
theorem test_tst_reg :
    gets (runs (machine 0x100#32 0x08000000#32 [(1, 0x80000000#32), (2, 0xffffffff#32)] []) 0x73120000)
      [.cpsr] = some [0x88000000#32] := by decide

theorem test_mc14_teq_reg :
    gets (runs (machine 0x100#32 0x08000000#32 [(1, 1#32), (2, 0x80000000#32)] []) 0x74120000)
      [.cpsr] = some [0x88000000#32] := by decide

/-- R174: equal operands. -/
theorem test_teq_imm :
    gets (runs (machine 0x100#32 0x08000000#32 [(1, 0xffffffff#32)] []) 0x841fffff)
      [.cpsr] = some [0x48000000#32] := by decide

theorem test_mc16_shf_reg :
    gets (runs (machine 0x100#32 0x08000000#32 [(1, 0x12345678#32), (2, 0xffffffdc#32)] []) 0x75120000)
      [.gpr 1] = some [0x01234567#32] := by decide

theorem test_mc17_shf_imm :
    gets (runs (machine 0x100#32 0x08000000#32 [(1, 0x12345678#32)] []) 0x85100004)
      [.gpr 1] = some [0x23456780#32] := by decide

theorem test_mc27_shf_no_flags :
    gets (runs (machine 0x100#32 0x08000000#32 [(1, 0x80000000#32)] []) 0x85100001)
      [.gpr 1, .cpsr] = some [0#32, 0x08000000#32] := by decide

theorem test_mc18_sha_reg :
    gets (runs (machine 0x100#32 0x08000000#32 [(1, 3#32), (2, 4#32)] []) 0x76120000)
      [.gpr 1] = some [0x3f#32] := by decide

theorem test_mc18_sha_imm :
    gets (runs (machine 0x100#32 0x08000000#32 [(1, 0x80000001#32)] []) 0x861fffff)
      [.gpr 1] = some [0xc0000000#32] := by decide

theorem test_mc19_rot_reg :
    gets (runs (machine 0x100#32 0x08000000#32 [(1, 0x12345678#32), (2, 0xffffffdc#32)] []) 0x77120000)
      [.gpr 1] = some [0x81234567#32] := by decide

theorem test_mc19_rot_imm :
    gets (runs (machine 0x100#32 0x08000000#32 [(1, 0x12345678#32)] []) 0x87100008)
      [.gpr 1] = some [0x34567812#32] := by decide

theorem test_mc20_one_reg :
    gets (runs (machine 0x100#32 0x08000000#32 [(2, 0xffff#32)] []) 0x78120000)
      [.gpr 1] = some [0xffff0000#32] := by decide

theorem test_mc21_one_imm :
    gets (runs (machine 0x100#32 0x08000000#32 [] []) 0x88100000)
      [.gpr 1] = some [0xffffffff#32] := by decide

theorem test_mc25_fti_imm :
    stops (runs (machine 0x100#32 0x08000000#32 []
      []) 0x89100001)
      = some (.inr (.floatImmediate 0x100#32)) := by decide

theorem test_mc25_cmf_imm :
    stops (runs (machine 0x100#32 0x08000000#32 []
      []) 0x8b100001)
      = some (.inr (.floatImmediate 0x100#32)) := by decide

theorem test_mc26_mov_pc :
    stops (runs (machine 0x100#32 0x08000000#32 []
      []) 0x80f00000)
      = some (.inr (.writeToPc 0x100#32)) := by decide

/-- MC24: N and Z are the uninterpreted comparison's. -/
theorem test_mc24_cmf :
    gets (exec (.cmfReg 1#4 2#4) (machine 0x100#32 0x08000000#32 [(1, 7#32), (2, 9#32)] [])) [.cpsr] =
      some [withNZ defaultCpsrPos 0x08000000#32 (Config.fCmp 7#32 9#32).1 (Config.fCmp 7#32 9#32).2] :=
  rfl

/-! ### Branches: the vectors BR of section 2.4 -/

theorem test_br1_bal_abs :
    gets (runs (machine 0x210#32 0x08000000#32 [] []) 0x90000218)
      [.pc] = some [0x218#32] := by decide

theorem test_br2_beq_taken :
    gets (runs (machine 0x208#32 0x48000000#32 [] []) 0x91000214)
      [.pc] = some [0x214#32] := by decide

theorem test_br2_beq_not_taken :
    gets (runs (machine 0x208#32 0x08000000#32 [] []) 0x91000214)
      [.pc] = some [0x20c#32] := by decide

theorem test_br3_bne_rel :
    gets (runs (machine 0x210#32 0x08000000#32 [] []) 0xb2fffff8)
      [.pc] = some [0x208#32] := by decide

theorem test_br4_blt_taken :
    gets (runs (machine 0x100#32 0x18000000#32 [] []) 0x93000300)
      [.pc] = some [0x300#32] := by decide

theorem test_br4_blt_not_taken :
    gets (runs (machine 0x100#32 0x98000000#32 [] []) 0x93000300)
      [.pc] = some [0x104#32] := by decide

theorem test_br5_ble_taken :
    gets (runs (machine 0x100#32 0xd8000000#32 [] []) 0x94000300)
      [.pc] = some [0x300#32] := by decide

theorem test_br5_ble_not_taken :
    gets (runs (machine 0x100#32 0x08000000#32 [] []) 0x94000300)
      [.pc] = some [0x104#32] := by decide

theorem test_br6_bgt_taken :
    gets (runs (machine 0x100#32 0x98000000#32 [] []) 0x95000300)
      [.pc] = some [0x300#32] := by decide

theorem test_br6_bgt_not_taken :
    gets (runs (machine 0x100#32 0x88000000#32 [] []) 0x95000300)
      [.pc] = some [0x104#32] := by decide

theorem test_br7_bge_taken :
    gets (runs (machine 0x100#32 0x98000000#32 [] []) 0x96000300)
      [.pc] = some [0x300#32] := by decide

theorem test_br7_bge_not_taken :
    gets (runs (machine 0x100#32 0x88000000#32 [] []) 0x96000300)
      [.pc] = some [0x104#32] := by decide

theorem test_br8_blr_abs :
    gets (runs (machine 0x200#32 0x08000000#32 [] []) 0x97000300)
      [.pc, .gpr 14] = some [0x300#32, 0x204#32] := by decide

theorem test_br9_blr_r14 :
    gets (runs (machine 0x200#32 0x08000000#32 [(14, 0x400#32)] []) 0xa7e00000)
      [.pc, .gpr 14] = some [0x400#32, 0x204#32] := by decide

theorem test_br10_bal_ind :
    gets (runs (machine 0x100#32 0x08000000#32 [(14, 0x204#32)] []) 0xa0e00000)
      [.pc] = some [0x204#32] := by decide

theorem test_br11_bal_rel :
    gets (runs (machine 0x100#32 0x08000000#32 [(4, 0x1ff0#32)] []) 0xb0400010)
      [.pc] = some [0x2000#32] := by decide

theorem test_br13_blr_kernel :
    gets (runs (machine 0x200#32 0x04000000#32 [(14, 0x77#32)] []) 0x97000300)
      [.pc, .r14k, .gpr 14] = some [0x300#32, 0x204#32, 0x77#32] := by decide

theorem test_br15_bal_pc :
    gets (runs (machine 0x100#32 0x08000000#32 [] []) 0xa0f00000)
      [.pc] = some [0x100#32] := by decide

theorem test_br14_illegal :
    stops (runs (machine 0x100#32 0x08000000#32 []
      []) 0x98000000)
      = some (.inl (.illegalInstruction 0x98000000#32 0x100#32)) := by decide

/-- BR12: a branch to a misaligned address; the next step faults. -/
theorem test_br12_fetch_misaligned :
    stops (step (machine 0x202#32 0x08000000#32 [] [])) = some (.inl (.fetchMisaligned 0x202#32)) := by
  decide

/-! ### Kernel instructions: the vectors KN of section 2.5 -/

theorem test_kn1_ker :
    gets (runs (withParams (machine 0x240#32 0x08000001#32 []
      []) { defaultParams with osBase := 0x1000 }) 0xc0000005)
      [.gpr 0, .r14k, .kpsr, .cpsr, .pc] = some [5#32, 0x244#32, 0x08000001#32, 0x04000001#32, 0x1000#32] := by decide

theorem test_kn2_ker_without_os :
    stops (runs (machine 0x100#32 0x08000000#32 []
      []) 0xc0000005)
      = some (.inr (.kerWithoutOs 0x100#32)) := by decide

theorem test_kn3_ker_in_kernel :
    stops (runs (machine 0x100#32 0x04000000#32 []
      []) 0xc0000005)
      = some (.inr (.kerNotFromUser 0x100#32)) := by decide

theorem test_kn4_srg_set :
    gets (runs (machine 0x100#32 0x04000000#32 [] []) 0xc100003d)
      [.cpsr, .pc] = some [0x24000000#32, 0x104#32] := by decide

theorem test_kn5_srg_clear :
    gets (runs (machine 0x100#32 0x24000000#32 [] []) 0xc100001d)
      [.cpsr] = some [0x04000000#32] := by decide

theorem test_kn6_srg_user :
    stops (runs (machine 0x100#32 0x08000000#32 []
      []) 0xc100003d)
      = some (.inl (.privilegeViolation 0x100#32)) := by decide

theorem test_kn7_bad_mode :
    stops (runs (machine 0x100#32 0#32 [] []) 0x70000000) = some (.inr (.badMode 0x100#32)) := by decide

theorem test_kn8_ioi :
    stops (runs (machine 0x100#32 0x04000000#32 []
      []) 0xc2000003)
      = some (.inr (.ioNotModelled 0x100#32)) := by decide

theorem test_kn8_ioi_user :
    stops (runs (machine 0x100#32 0x08000000#32 []
      []) 0xc2000003)
      = some (.inl (.privilegeViolation 0x100#32)) := by decide

/-- KN9: `rfi 0` in mode K. -/
theorem test_kn9_rfi : gets (runs { machine 0x100#32 0x04000000#32 [] [] with
      kpsr := 0x08000001#32, r14k := 0x244#32 } 0xc3000000) [.cpsr, .pc] =
    some [0x08000001#32, 0x244#32] := by decide

/-- KN11: `rfi 1` in mode I. -/
theorem test_kn11_rfi : gets (runs { machine 0x100#32 0x02000000#32 [] [] with
      ipsr := 0x08000000#32, r14i := 0x20c#32 } 0xc3000001) [.cpsr, .pc] =
    some [0x08000000#32, 0x20c#32] := by decide

theorem test_kn10_rfi_bad :
    stops (runs (machine 0x100#32 0x04000000#32 []
      []) 0xc3000001)
      = some (.inr (.badRfi 0x100#32)) := by decide

/-- R253, D21: `rfi 1` in mode I returns under `BANKING` = none too (log 10). -/
theorem test_rfi_without_banking : gets (runs (withParams { machine 0x100#32 0x02000000#32 [] [] with
      ipsr := 0x08000000#32, r14i := 0x20c#32 } { defaultParams with banking := .none }) 0xc3000001)
      [.cpsr, .pc] = some [0x08000000#32, 0x20c#32] := by decide

/-- KN12, X2: `mkd r6, r14` in mode K copies r14_k to r14_i. -/
theorem test_kn12_mkd : gets (runs { machine 0x100#32 0x04000000#32 [(14, 0x55#32)] [] with
      r14k := 0x1234#32 } 0xc46e0000) [.r14i, .r14k, .gpr 14, .pc] =
    some [0x1234#32, 0x1234#32, 0x55#32, 0x104#32] := by decide

theorem test_kn15_mkd_cpsr :
    gets (runs (machine 0x100#32 0x04000000#32 [(2, 0x08000001#32)] []) 0xc4020000)
      [.cpsr] = some [0x08000001#32] := by decide

theorem test_kn13_mks :
    gets (runs (machine 0x100#32 0x24000000#32 [] []) 0xc5100000)
      [.gpr 1] = some [0x24000000#32] := by decide

theorem test_kn14_mks_kr10 :
    stops (runs (machine 0x100#32 0x04000000#32 []
      []) 0xc5ea0000)
      = some (.inr (.unknownKernelReg 0x100#32)) := by decide

/-- KN16: register 13 names r13_k in mode K. -/
theorem test_kn16_bank : gets (runs { machine 0x100#32 0x04000000#32 [(13, 0x55#32)] [] with
      r13k := 0x8000#32 } 0x701d0000) [.gpr 1] = some [0x8000#32] := by decide

/-- KN17: the entry of the timer interrupt, from the state in which it is taken. -/
theorem test_kn17_timer : gets (.next (withParams { machine 0x20c#32 0x08000000#32 [] [] with
      timerPending := true } { defaultParams with timerPresent := true, tmrVector := 0x40 }).takeTimer)
      [.ipsr, .cpsr, .r14i, .pc] = some [0x08000000#32, 0x02000000#32, 0x20c#32, 0x40#32] := by decide

/-- P8 F4 and F8: the fetch of an absent word, and the opcode of `!label`. -/
theorem test_p8_fetch :
    stops (step (machine 0x104#32 0x08000000#32 [] [])) =
      some (.inl (.fetchAccessFault 0x104#32)) ∧
    stops (runs (machine 0x100#32 0x08000000#32 [] []) 0x19000000) =
      some (.inl (.illegalInstruction 0x19000000#32 0x100#32)) := by decide

/-! ### Witnesses: a state and operands that meet the hypotheses of each statement together -/

/-- Mode U, OS flag set, C and V set: registers, data and code to use. -/
def user : State :=
  machine 0x100#32 0x38000001#32
    [(0, 0x80#32), (1, 0x1000#32), (2, 0xfffffffe#32), (3, 4#32), (4, 0x1001#32), (14, 0x404#32)]
    [(0x100, 0x50312000#32), (0x1000, 0x80000085#32), (0x1004, 0x11223344#32)]

/-- The same in mode K. -/
def kernel : State := { user with cpsr := 0x04000001#32, kpsr := 0x08000001#32, r14k := 0x244#32 }

/-- The same in mode I. -/
def interrupt : State := { user with cpsr := 0x02000001#32, ipsr := 0x08000001#32, r14i := 0x20c#32 }

/-- A layout with the opcode in the least significant byte. -/
def lowOpcode : Layout :=
  { opcode := 0, rd := 8, rm := 12, rn := 16, imm12 := 20, imm16 := 16, imm20 := 12 }

theorem witness_modes : user.mode = some .user ∧ kernel.mode = some .kernel ∧
    interrupt.mode = some .interrupt ∧ user.wf = true ∧ kernel.wf = true ∧ interrupt.wf = true ∧
    cpsrPosWf user.params.cpsrPos = true := by decide

theorem witness_DecodeOfEncodeIsTheInstruction :
    defaultLayout.wf = true ∧ lowOpcode.wf = true := by decide

theorem witness_DecodedWordAgreesWithEncodingOnUsedBits :
    lowOpcode.wf = true ∧ decodeWord lowOpcode 0xabc21350#32 = .ok (.addReg 3#4 1#4 2#4) := by decide

/-- The ends of the first and the last range. -/
theorem witness_IllegalOpcodeBytesAreThose138 :
    decodeWord defaultLayout 0x00000000#32 = .error (.illegalOpcode 0x00000000#32) ∧
    decodeWord defaultLayout 0x0fffffff#32 = .error (.illegalOpcode 0x0fffffff#32) ∧
    decodeWord defaultLayout 0xc6000000#32 = .error (.illegalOpcode 0xc6000000#32) ∧
    decodeWord defaultLayout 0xffffffff#32 = .error (.illegalOpcode 0xffffffff#32) := by decide

theorem witness_StepRunsTheDecodedInstruction :
    user.takesTimer = false ∧ user.atEnd = false ∧ user.pc.toNat % 4 = 0 ∧
    user.word? user.pc.toNat = some 0x50312000#32 ∧
    decodeWord user.params.layout 0x50312000#32 = .ok (.addReg 3#4 1#4 2#4) ∧
    user.params.timerPresent = false := by decide

/-- Also with a timer, in mode I, where it is never taken. -/
theorem witness_StepRunsTheDecodedInstruction_timer :
    let s := withParams { interrupt with timerPending := true } { defaultParams with timerPresent := true }
    s.takesTimer = false ∧ s.atEnd = false ∧ s.pc.toNat % 4 = 0 ∧
    s.word? s.pc.toNat = some 0x50312000#32 ∧
    decodeWord s.params.layout 0x50312000#32 = .ok (.addReg 3#4 1#4 2#4) := by
  refine ⟨?_, by decide, by decide, by decide, by decide⟩
  have h : (withParams { interrupt with timerPending := true }
      { defaultParams with timerPresent := true }).mode = some .interrupt := by decide
  simp [State.takesTimer, h]

theorem witness_StepRunsTheEncodedInstruction :
    let b : Nat → Byte := fun k => (bytesOfWord .little 0x50312000#32).getD k 0
    user.params.layout.wf = true ∧ user.params.timerPresent = false ∧ user.atEnd = false ∧
    user.pc.toNat % 4 = 0 ∧
    bytesOfWord user.params.byteOrder (encodeWith user.params.layout (.addReg 3#4 1#4 2#4)) =
      [b 0, b 1, b 2, b 3] ∧
    (∀ k, k < 4 → user.byte? (user.pc.toNat + k) = some (b k)) := by decide

/-- One for each clause; the second in the last word of a `MemMap` that ends within it. -/
theorem witness_FetchAndDecodeFaults :
    (let s := { user with pc := 0x101#32 }
     s.takesTimer = false ∧ s.atEnd = false ∧ s.pc.toNat % 4 ≠ 0) ∧
    (let s := withParams user { defaultParams with memMap := [⟨0, 0x103⟩] }
     s.takesTimer = false ∧ s.atEnd = false ∧ s.pc.toNat % 4 = 0 ∧ s.word? s.pc.toNat = none) ∧
    (let s := { user with mem := user.mem.write 0x103 0x5e#8 }
     s.takesTimer = false ∧ s.atEnd = false ∧ s.pc.toNat % 4 = 0 ∧
     s.word? s.pc.toNat = some 0x5e312000#32 ∧
     decodeWord s.params.layout 0x5e312000#32 = .error (.illegalOpcode 0x5e312000#32)) := by decide

/-- No mode flag, and two of them. -/
theorem witness_NoModeRefusesEveryInstruction :
    { user with cpsr := 0x00000000#32 }.mode = none ∧
    { user with cpsr := 0x0c000000#32 }.mode = none := by decide

theorem witness_TimerInterruptEntry :
    let p : Params := { defaultParams with timerPresent := true, tmrVector := 0x40 }
    let s := withParams { user with timerPending := true } p
    let t := withParams { kernel with timerPending := true } p
    s.params.timerPresent = true ∧ s.timerPending = true ∧ s.mode = some .user ∧
    t.params.timerPresent = true ∧ t.timerPending = true ∧ t.mode = some .kernel ∧
    cpsrPosWf s.params.cpsrPos = true := by decide

theorem witness_TimerMovesOnlyItsPendingBit :
    interrupt.mode = some .interrupt ∧ user.params.timerPresent = false ∧
    { user with timerPending := true }.timerPending = true := by decide

theorem witness_FinalStateStays :
    Final (withParams user { defaultParams with endPc := some 0x100#32 }) :=
  ⟨by decide, by decide⟩

/-- A form without and one with writeback. -/
theorem witness_LoadWordResult :
    user.mode = some .user ∧ 5#4 ≠ 15#4 ∧ (AddrForm.reg 1#4).writebackBase ≠ some 15#4 ∧
    (AddrForm.reg 1#4).writebackBase ≠ some 5#4 ∧
    (user.effectiveAddress .user (.reg 1#4)).toNat % 4 = 0 ∧
    user.word? (user.effectiveAddress .user (.reg 1#4)).toNat = some 0x80000085#32 ∧
    (AddrForm.preIdx 1#4 3#4).writebackBase ≠ some 15#4 ∧
    (AddrForm.preIdx 1#4 3#4).writebackBase ≠ some 5#4 ∧
    (user.effectiveAddress .user (.preIdx 1#4 3#4)).toNat % 4 = 0 ∧
    user.word? (user.effectiveAddress .user (.preIdx 1#4 3#4)).toNat = some 0x11223344#32 ∧
    user.baseUpdate .user (.preIdx 1#4 3#4) = some (1#4, 0x1004#32) := by decide

theorem witness_LoadByteResult :
    user.mode = some .user ∧ 5#4 ≠ 15#4 ∧ (AddrForm.postIdx 1#4 3#4).writebackBase ≠ some 15#4 ∧
    (AddrForm.postIdx 1#4 3#4).writebackBase ≠ some 5#4 ∧
    user.byte? (user.effectiveAddress .user (.postIdx 1#4 3#4)).toNat = some 0x85#8 ∧
    user.params.ldbExt = .zero ∧
    (withParams user { defaultParams with ldbExt := .sign }).params.ldbExt = .sign := by decide

theorem witness_StoreWordResult :
    user.mode = some .user ∧ (AddrForm.postOff 1#4 0xfffc#16).writebackBase ≠ some 15#4 ∧
    (AddrForm.postOff 1#4 0xfffc#16).writebackBase ≠ some 2#4 ∧
    (user.effectiveAddress .user (.postOff 1#4 0xfffc#16)).toNat % 4 = 0 ∧
    wordInMap user.params.memMap (user.effectiveAddress .user (.postOff 1#4 0xfffc#16)).toNat = true ∧
    user.baseUpdate .user (.postOff 1#4 0xfffc#16) = some (1#4, 0xffc#32) := by decide

theorem witness_StoreByteResult :
    user.mode = some .user ∧ (AddrForm.scaled 1#4 3#4 2#12).writebackBase ≠ some 15#4 ∧
    (AddrForm.scaled 1#4 3#4 2#12).writebackBase ≠ some 2#4 ∧
    inMap user.params.memMap (user.effectiveAddress .user (.scaled 1#4 3#4 2#12)).toNat = true := by
  decide

theorem witness_MisalignedWordAccessFaults :
    user.mode = some .user ∧ (AddrForm.reg 4#4).writebackBase ≠ some 15#4 ∧
    (AddrForm.reg 4#4).writebackBase ≠ some 2#4 ∧
    (user.effectiveAddress .user (.reg 4#4)).toNat % 4 ≠ 0 ∧ 2#4 ≠ 15#4 := by decide

/-- Every clause, with a `MemMap` whose last byte is 0x1006: the word at 0x1004 ends outside it. -/
theorem witness_AccessOutsideMemoryFaults :
    let s := withParams user { defaultParams with memMap := [⟨0, 0x1007⟩] }
    let word := s.effectiveAddress .user (.off 1#4 4#16)
    let byte := s.effectiveAddress .user (.off 1#4 7#16)
    s.mode = some .user ∧ (AddrForm.off 1#4 4#16).writebackBase ≠ some 15#4 ∧
    (AddrForm.off 1#4 4#16).writebackBase ≠ some 2#4 ∧
    (AddrForm.off 1#4 7#16).writebackBase ≠ some 15#4 ∧
    (AddrForm.off 1#4 7#16).writebackBase ≠ some 2#4 ∧ 2#4 ≠ 15#4 ∧
    inMap s.params.memMap byte.toNat = false ∧ s.byte? byte.toNat = none ∧ word.toNat % 4 = 0 ∧
    wordInMap s.params.memMap word.toNat = false ∧ s.word? word.toNat = none := by decide

/-- The first and the last count of each clause, and the other `IndexShift`. -/
theorem witness_ScaledIndexShiftsTheIndex :
    user.params.indexShift = .standard ∧ 0 ≤ (0#12).toInt ∧ 0 ≤ (0x7ff#12).toInt ∧
    (0xfff#12).toInt < 0 ∧ (0x800#12).toInt < 0 ∧
    (withParams user { defaultParams with indexShift := .given }).params.indexShift = .given := by decide

/-- Both byte orders, the last word of the address space. -/
theorem witness_LoadAndFetchAfterStore :
    (∃ t, user.storeWord 0xfffffffc#32 0x11223344#32 = .ok t ∧ user.params.byteOrder = .little) ∧
    (let s := { withParams user { defaultParams with byteOrder := .big } with pc := 0x100#32 }
     ∃ t, s.storeWord 0x100#32 0x11223344#32 = .ok t ∧ t.pc = 0x100#32 ∧
       s.params.byteOrder = .big) :=
  ⟨⟨_, rfl, rfl⟩, ⟨_, rfl, rfl, rfl⟩⟩

/-- For the statements about an instruction that writes rd in a mode. -/
theorem witness_AddSubResult : user.mode = some .user ∧ 3#4 ≠ 15#4 := by decide

theorem witness_MultiplyResult : user.mode = some .user ∧ 3#4 ≠ 15#4 := by decide

/-- The first and the last number of the user bank and of the shared registers; both extensions of an
immediate whose sign bit is set. -/
theorem witness_OperandValues : (0 : Fin 15).val < 13 ∧ (12 : Fin 15).val < 13 ∧ 0#4 ≠ 15#4 ∧
    14#4 ≠ 15#4 ∧ user.params.arithImm16Ext = .sign ∧
    (withParams user { defaultParams with arithImm16Ext := .zero }).params.arithImm16Ext = .zero ∧
    (0x8000#16).toInt = -32768 ∧ (0x8000#16).toNat = 32768 := by decide

theorem witness_LogicResult : user.mode = some .user ∧ 3#4 ≠ 15#4 ∧
    user.params.arithImm16Ext = .sign := by decide

/-- Both values of `SBC_BORROW`. -/
theorem witness_CarryArithmeticResult : user.mode = some .user ∧ 3#4 ≠ 15#4 ∧
    user.flag user.params.cpsrPos.c = true ∧ user.params.sbcBorrow = .arm ∧
    (withParams user { defaultParams with sbcBorrow := .plain }).params.sbcBorrow = .plain := by decide

/-- Each clause: an ordinary quotient, the one that does not fit, and a `DivS` of its own. -/
theorem witness_DivideResult :
    user.mode = some .user ∧ 3#4 ≠ 15#4 ∧ user.arithOp2 .user (.reg 2#4) ≠ 0#32 ∧
    user.params.divS = .standard ∧
    ¬ (user.readReg .user 1#4 = 0x80000000#32 ∧ user.arithOp2 .user (.reg 2#4) = 0xffffffff#32) ∧
    (let s := { user with regs := user.regs.set 1 0x80000000#32 }
     s.mode = some .user ∧ s.readReg .user 1#4 = 0x80000000#32 ∧
     s.arithOp2 .user (.imm 0xffff#16) = 0xffffffff#32) ∧
    (withParams user { defaultParams with divS := .given }).params.divS = .given := by decide

theorem witness_ModuloResult :
    user.mode = some .user ∧ 3#4 ≠ 15#4 ∧ user.arithOp2 .user (.reg 2#4) ≠ 0#32 ∧
    user.params.divS = .standard ∧
    (withParams user { defaultParams with divS := .given }).params.divS = .given := by decide

theorem witness_DivideByZeroFaultsOrDraws :
    user.mode = some .user ∧ 3#4 ≠ 15#4 ∧ user.arithOp2 .user (.imm 0#16) = 0#32 ∧
    user.params.div0 = .fault ∧
    (withParams user { defaultParams with div0 := .draw }).params.div0 = .draw := by decide

theorem witness_FloatArithmeticResult : user.mode = some .user ∧ 3#4 ≠ 15#4 := by decide

/-- A destination that is not the pc, and one that is. -/
theorem witness_FloatImmediateIsRefused : user.mode = some .user ∧
    (Instr.adfImm 3#4 1#4 1#16).shape.floatImmediate = true ∧
    (Instr.adfImm 3#4 1#4 1#16).shape.writesPc = false ∧
    (Instr.ftiImm 15#4 1#20).shape.floatImmediate = true ∧
    (Instr.ftiImm 15#4 1#20).shape.writesPc = true := by decide

theorem witness_MoveResult : user.mode = some .user ∧ 3#4 ≠ 15#4 := by decide

/-- For `shf`, `sha` and `rot`, both directions: the counts 31 and 32, and -31 and -1. -/
theorem witness_ShiftLogicalResult_ShiftArithmeticResult_RotateResult :
    user.mode = some .user ∧ 3#4 ≠ 15#4 ∧
    0 ≤ (user.moveOp2 .user (.imm 31#20)).toInt ∧ 0 ≤ (user.moveOp2 .user (.imm 32#20)).toInt ∧
    (user.moveOp2 .user (.imm 0xfffe1#20)).toInt < 0 ∧
    (user.moveOp2 .user (.imm 0xfffff#20)).toInt < 0 := by decide

theorem witness_FloatConversionResult : user.mode = some .user ∧ 3#4 ≠ 15#4 := by decide

/-- Both values of `CMP_WRITES_CV`. -/
theorem witness_CompareResult : user.mode = some .user ∧ cpsrPosWf user.params.cpsrPos = true ∧
    user.params.cmpWritesCV = false ∧
    (withParams user { defaultParams with cmpWritesCV := true }).params.cmpWritesCV = true := by decide

theorem witness_TestResult : user.mode = some .user ∧ cpsrPosWf user.params.cpsrPos = true := by decide

theorem witness_FloatCompareResult :
    user.mode = some .user ∧ cpsrPosWf user.params.cpsrPos = true := by decide

/-- Both values of each condition. -/
theorem witness_BranchResult :
    user.mode = some .user ∧ user.flag 30#5 = false ∧ user.flag 31#5 ≠ user.flag 28#5 ∧
    (let s := { user with cpsr := 0x48000000#32 }
     s.mode = some .user ∧ s.flag 30#5 = true ∧ s.flag 31#5 = s.flag 28#5) := by decide

theorem witness_BranchLinkResult : kernel.mode = some .kernel := by decide

theorem witness_KerEntersTheKernel :
    user.mode = some .user ∧ user.params.banking = .banked ∧
    user.flag user.params.cpsrPos.os = true ∧ cpsrPosWf user.params.cpsrPos = true ∧
    user.params.kerImmExt = .zero ∧
    (withParams user { defaultParams with kerImmExt := .sign }).params.kerImmExt = .sign := by decide

/-- In a privileged mode, and in user mode without `PRIV_CHECK`. -/
theorem witness_SrgWritesOneStatusBit :
    kernel.mode = some .kernel ∧ (kernel.params.privCheck = false ∨ Mode.kernel ≠ Mode.user) ∧
    (let s := withParams user { defaultParams with privCheck := false }
     s.mode = some .user ∧ s.params.privCheck = false) := by decide

theorem witness_IoiAppliesTheDevice :
    let s := withParams kernel { defaultParams with ioDevice := .given }
    s.mode = some .kernel ∧ (s.params.privCheck = false ∨ Mode.kernel ≠ Mode.user) ∧
    s.params.ioDevice = .given := by decide

/-- Under both values of `BANKING`. -/
theorem witness_RfiReturns : kernel.mode = some .kernel ∧ interrupt.mode = some .interrupt ∧
    (withParams kernel { defaultParams with banking := .none }).mode = some .kernel ∧
    (withParams interrupt { defaultParams with banking := .none }).mode = some .interrupt := by decide

/-- kr6, the last one always accessible, and kr7, the first one under the switch. -/
theorem witness_MkdWritesTheKernelRegister :
    kernel.mode = some .kernel ∧ (kernel.params.privCheck = false ∨ Mode.kernel ≠ Mode.user) ∧
    ((6#4).toNat < 7 ∨ kernel.params.krStorage = .plain) ∧
    ((7#4).toNat < 7 ∨
      (withParams kernel { defaultParams with krStorage := .plain }).params.krStorage = .plain) := by
  decide

theorem witness_MksReadsTheKernelRegister :
    kernel.mode = some .kernel ∧ (kernel.params.privCheck = false ∨ Mode.kernel ≠ Mode.user) ∧
    3#4 ≠ 15#4 ∧ ((6#4).toNat < 7 ∨ kernel.params.krStorage = .plain) ∧
    ((15#4).toNat < 7 ∨
      (withParams kernel { defaultParams with krStorage := .plain }).params.krStorage = .plain) := by
  decide

theorem witness_KernelInstructionsFaultInUserMode :
    user.mode = some .user ∧ user.params.privCheck = true := by decide

/-- One for each clause. -/
theorem witness_KernelRefusals :
    (let s := withParams user { defaultParams with banking := .none }
     s.mode = some .user ∧ s.params.banking = .none) ∧
    (kernel.mode = some .kernel ∧ kernel.params.banking = .banked ∧ Mode.kernel ≠ Mode.user) ∧
    (let s := { user with cpsr := 0x08000000#32 }
     s.mode = some .user ∧ s.params.banking = .banked ∧ s.flag s.params.cpsrPos.os = false) ∧
    (kernel.params.privCheck = false ∨ Mode.kernel ≠ Mode.user) ∧ kernel.params.ioDevice = .absent ∧
    ¬ (1#20 = 0#20 ∧ Mode.kernel = Mode.kernel) ∧ ¬ (1#20 = 1#20 ∧ Mode.kernel = Mode.interrupt) ∧
    7 ≤ (7#4).toNat ∧ kernel.params.krStorage = .refused ∧ 3#4 ≠ 15#4 := by decide

theorem witness_RfiUndoesKer : cpsrPosWf user.params.cpsrPos = true ∧
    ∃ t, exec (.ker 5#20) user = .next t := ⟨by decide, _, rfl⟩

theorem witness_RfiUndoesTheTimerInterrupt : cpsrPosWf user.params.cpsrPos = true ∧
    user.mode = some .user ∧ kernel.mode = some .kernel := by decide

/-- A destination, a base, and `mks`, of kr0 and of kr7, in a privileged mode and without `PRIV_CHECK`. -/
theorem witness_WriteToPcIsRefused :
    user.mode = some .user ∧ (Instr.addReg 15#4 1#4 2#4).shape.writesPc = true ∧
    (∀ rd krm, Instr.addReg 15#4 1#4 2#4 ≠ .mks rd krm) ∧
    (Instr.strPostOff 1#4 15#4 4#16).shape.writesPc = true ∧
    (∀ rd krm, Instr.strPostOff 1#4 15#4 4#16 ≠ .mks rd krm) ∧
    kernel.mode = some .kernel ∧ (Instr.mks 15#4 0#4).shape.writesPc = true ∧
    (Instr.mks 15#4 7#4).shape.writesPc = true ∧
    Mode.kernel ≠ Mode.user ∧
    (withParams user { defaultParams with privCheck := false }).params.privCheck = false := by
  exact ⟨by decide, by decide, nofun, by decide, nofun, by decide, by decide, by decide,
    by decide, by decide⟩

theorem witness_WritebackToOwnRegisterIsRefused : user.mode = some .user ∧ 1#4 ≠ 15#4 ∧
    (AddrForm.preOff 1#4 4#16).writebackBase = some 1#4 := by decide

theorem witness_IllFormedInstructionsNeverComplete :
    Instr.wellFormed (.movReg 15#4 1#4) = false ∧ Instr.wellFormed (.rfi 2#20) = false := by decide

theorem witness_StepKeepsTheInvariant : user.wf = true ∧ ∃ t, step user = .next t :=
  ⟨by decide, _, rfl⟩

theorem witness_LaunchMeetsTheInvariant : paramsWf defaultParams = true ∧
    paramsWf { defaultParams with layout := lowOpcode, cpsrPos := ⟨0, 1, 2, 3, 4, 5, 6, 7⟩ } = true := by
  decide

theorem witness_UserModeIsConfined :
    cpsrPosWf user.params.cpsrPos = true ∧ user.mode = some .user ∧ user.params.privCheck = true ∧
    (∀ imm, Instr.cmpReg 1#4 2#4 ≠ .ker imm) ∧ ∃ t, exec (.cmpReg 1#4 2#4) user = .next t :=
  ⟨by decide, by decide, by decide, nofun, _, rfl⟩

/-- `cmp` for C and V under `CMP_WRITES_CV` = false, `add` for N and Z, and for C and V under true. -/
theorem witness_OnlyComparesAndStatusWritesChangeFlags :
    cpsrPosWf user.params.cpsrPos = true ∧ user.params.cmpWritesCV = false ∧
    (∃ t, exec (.cmpReg 1#4 2#4) user = .next t) ∧ (∃ t, exec (.addReg 3#4 1#4 2#4) user = .next t) ∧
    (let s := withParams user { defaultParams with cmpWritesCV := true }
     cpsrPosWf s.params.cpsrPos = true ∧ s.params.cmpWritesCV = true ∧
     ∃ t, exec (.addReg 3#4 1#4 2#4) s = .next t) ∧
    (∀ rd o, (Instr.addReg 3#4 1#4 2#4).shape ≠ .move .cmp rd o) ∧
    (∀ op rd o, (Instr.addReg 3#4 1#4 2#4).shape = .move op rd o → op.writesRd = true) ∧
    (∀ value pos, Instr.addReg 3#4 1#4 2#4 ≠ .srg value pos) ∧
    (∀ rm, Instr.addReg 3#4 1#4 2#4 ≠ .mkd 0#4 rm) ∧ (∀ imm, Instr.addReg 3#4 1#4 2#4 ≠ .rfi imm) :=
  ⟨by decide, by decide, ⟨_, rfl⟩, ⟨_, rfl⟩, ⟨by decide, by decide, _, rfl⟩, nofun, nofun, nofun, nofun,
    nofun⟩

/-- The farthest labels that each field reaches, and the nearest it does not. -/
theorem witness_LabelSpellingReachesTheLabel :
    (assemble user.params 0x100#32 (.loadStore .ldr 1#4 (.label 0x80ff#32))).isSome = true ∧
    (assemble user.params 0x100#32 (.loadStore .ldr 1#4 (.label 0x8100#32))).isSome = false ∧
    (assemble user.params 0x100#32 (.branch .bal (.label 0xfff80100#32))).isSome = true ∧
    (assemble user.params 0x100#32 (.branch .bal (.label 0xfff800ff#32))).isSome = false := by decide

end Sys2Proof.Tests
end

section
/-! Proofs. What an instruction that writes one register leaves unchanged, the arithmetic grid in those
terms, and the statements about `add`, `sub`, `and`, `orr` and `eor` (41_arith_logic.md R140, R141, R145
to R147). -/

namespace Sys2Proof.Machine

/-! ### The frame of a register write -/

/-- A byte reads the same where neither the memory nor `MemMap` has changed. -/
theorem State.byte?_congr {s t : State} (hmem : t.mem = s.mem) (hparams : t.params = s.params)
    (a : Nat) : t.byte? a = s.byte? a := by
  simp only [State.byte?, hmem, hparams]

theorem onlyChanges_writeReg_advance (s : State) (m : Mode) (rd : RegNum) (v : Word) :
    OnlyChanges s (s.writeReg m rd v).advance (pcAnd s m rd) noByte := by
  refine ⟨fun r hr => ?_, fun a _ => State.byte?_congr (by simp) (by simp) a,
    by simp, by simp, by simp, by simp⟩
  have hpc : r ≠ .pc := fun e => hr (.inl e)
  have hrd : r ≠ home s.params.banking m rd := fun e => hr (.inr e)
  rw [State.get_advance_of_ne _ hpc, State.writeReg, State.get_set_of_ne s v hrd]

/-- An instruction that answers the state with `rd` written and the pc advanced writes `rd` and nothing
else, since `rd` is not the pc. -/
theorem writesReg_of_exec {i : Instr} {s : State} {m : Mode} {rd : RegNum} {v : Word}
    (hrd : rd ≠ 15#4) (h : exec i s = .next (s.writeReg m rd v).advance) : WritesReg i s m rd v := by
  refine ⟨_, h, ?_, ?_, onlyChanges_writeReg_advance s m rd v⟩
  · rw [State.readReg_advance _ m hrd, State.readReg_writeReg_self s m v hrd]
  · rw [State.advance_pc, State.writeReg_pc s m v hrd]

/-! ### The arithmetic grid -/

theorem exec_arithOf (op : ArithOp) (rd rm : RegNum) (o : ArithOperand) (s : State) :
    exec (arithOf op rd rm o) s = arithMeaning op rd rm o s :=
  exec_instr (.arith op rd rm o) s

/-- `State.arith` completes in every mode when rd is not 15. -/
theorem State.arith_of_mode {s : State} {m : Mode} {rd : RegNum} (hm : s.mode = some m)
    (hrd : rd ≠ 15#4) (f : Word → Word → Word) (rm : RegNum) (o : ArithOperand) :
    s.arith f rd rm o = .next (s.writeReg m rd (f (s.readReg m rm) (s.arithOp2 m o))).advance := by
  rw [State.arith, State.inMode_of_mode hm, State.writing_of_ne hrd]

/-- A mnemonic of the arithmetic grid that means a total function writes its value at the two sources. -/
theorem writesReg_arithOf {op : ArithOp} {f : Word → Word → Word} {s : State} {m : Mode}
    {rd rm : RegNum} {o : ArithOperand} (hm : s.mode = some m) (hrd : rd ≠ 15#4)
    (hop : arithMeaning op rd rm o s = s.arith f rd rm o) :
    WritesReg (arithOf op rd rm o) s m rd (f (s.readReg m rm) (s.arithOp2 m o)) := by
  apply writesReg_of_exec hrd
  rw [exec_arithOf, hop, State.arith_of_mode hm hrd]

/-! ### Addition and subtraction modulo 2^32 -/

theorem word_add_eq_ofNat_toNat (a b : Word) : a + b = BitVec.ofNat 32 (a.toNat + b.toNat) := by
  rw [BitVec.ofNat_add, BitVec.ofNat_toNat, BitVec.ofNat_toNat, BitVec.setWidth_eq,
    BitVec.setWidth_eq]

theorem word_add_eq_ofInt_toInt (a b : Word) : a + b = BitVec.ofInt 32 (a.toInt + b.toInt) := by
  rw [BitVec.ofInt_add, BitVec.ofInt_toInt, BitVec.ofInt_toInt]

theorem word_ofInt_sub (x y : Int) :
    BitVec.ofInt 32 (x - y) = BitVec.ofInt 32 x - BitVec.ofInt 32 y := by
  rw [eq_sub_iff_add_eq, ← BitVec.ofInt_add, Int.sub_add_cancel]

theorem word_sub_eq_ofInt_toNat (a b : Word) :
    a - b = BitVec.ofInt 32 ((a.toNat : Int) - b.toNat) := by
  simp [word_ofInt_sub]

theorem word_sub_eq_ofInt_toInt (a b : Word) : a - b = BitVec.ofInt 32 (a.toInt - b.toInt) := by
  rw [word_ofInt_sub, BitVec.ofInt_toInt, BitVec.ofInt_toInt]

/-- Settles O21: the grid's `add` and `sub` write `a + b` and `a - b`, which are the sum and the difference
modulo 2^32 of both readings of the operands. -/
theorem addSubResult : Obligations.AddSubResult := by
  refine ⟨fun s m rd rm o hm hrd => ?_, fun rd rm rn imm => ?_, rfl, rfl, rfl, rfl⟩
  · exact ⟨s.readReg m rm + s.arithOp2 m o, s.readReg m rm - s.arithOp2 m o,
      writesReg_arithOf hm hrd rfl, writesReg_arithOf hm hrd rfl,
      word_add_eq_ofNat_toNat _ _, word_add_eq_ofInt_toInt _ _,
      word_sub_eq_ofInt_toNat _ _, word_sub_eq_ofInt_toInt _ _⟩
  · exact ⟨Laws.OpcodeByte.addReg rd rm rn, Laws.OpcodeByte.addImm rd rm imm,
      Laws.OpcodeByte.subReg rd rm rn, Laws.OpcodeByte.subImm rd rm imm⟩

/-! ### The logic instructions bit by bit -/

/-- The bits of a sign-extended imm16: its own, and above them copies of its bit 15 (R94). -/
theorem getLsbD_extend_sign_imm16 (imm : BitVec 16) {i : Nat} (hi : i < 32) :
    (extend .sign imm).getLsbD i = if i < 16 then imm.getLsbD i else imm.getLsbD 15 := by
  simp only [extend, BitVec.getLsbD_signExtend, BitVec.msb_eq_getLsbD_last, hi, decide_true,
    Bool.true_and, Nat.add_one_sub_one]

theorem State.getLsbD_arithOp2_imm {s : State} (hext : s.params.arithImm16Ext = .sign) (m : Mode)
    (imm : BitVec 16) {i : Nat} (hi : i < 32) :
    (s.arithOp2 m (.imm imm)).getLsbD i = if i < 16 then imm.getLsbD i else imm.getLsbD 15 := by
  rw [State.arithOp2, hext, getLsbD_extend_sign_imm16 imm hi]

/-- Settles O24: the grid's `and`, `orr` and `eor` write the bitwise operation of the two sources; the
mask of an immediate is read off the sign extension, and `eor` of a register with itself cancels. -/
theorem logicResult : Obligations.LogicResult := by
  refine ⟨fun s m rd rm o hm hrd => ?_, fun rd rm rn imm => ?_, rfl, rfl, rfl, rfl, rfl⟩
  · refine ⟨s.readReg m rm &&& s.arithOp2 m o, s.readReg m rm ||| s.arithOp2 m o,
      s.readReg m rm ^^^ s.arithOp2 m o, writesReg_arithOf hm hrd rfl, writesReg_arithOf hm hrd rfl,
      writesReg_arithOf hm hrd rfl, ?eorSelf, fun i hi => ⟨BitVec.getLsbD_and, BitVec.getLsbD_or,
        BitVec.getLsbD_xor, ?signedMask⟩⟩
    case eorSelf =>
      rintro rfl
      exact BitVec.xor_self
    case signedMask =>
      rintro hext imm rfl
      exact State.getLsbD_arithOp2_imm hext m imm hi
  · exact ⟨Laws.OpcodeByte.andReg rd rm rn, Laws.OpcodeByte.andImm rd rm imm,
      Laws.OpcodeByte.orrReg rd rm rn, Laws.OpcodeByte.orrImm rd rm imm,
      Laws.OpcodeByte.eorReg rd rm rn, Laws.OpcodeByte.eorImm rd rm imm⟩

end Sys2Proof.Machine
end

section
/-! Proofs. What a comparison writes and leaves unchanged, N and Z after `withNZ`, and the statement about
`tst` and `teq` (42_move_compare_shift.md R173, R174). -/

namespace Sys2Proof.Machine

/-! ### N and Z of the status word -/

theorem cpsrPos_n_ne_z {p : CpsrPos} (hp : cpsrPosWf p = true) : p.n ≠ p.z := by
  simp only [cpsrPosWf, decide_eq_true_eq] at hp
  exact fun e => List.not_nodup_cons_of_mem (by simp [e]) hp

theorem statusBit_withNZ_n {p : CpsrPos} (hp : cpsrPosWf p = true) (psr : Word) (n z : Bool) :
    statusBit (withNZ p psr n z) p.n = n := by
  rw [withNZ, statusBit_setStatusBit_of_ne _ _ (cpsrPos_n_ne_z hp), statusBit_setStatusBit_self]

@[simp] theorem statusBit_withNZ_z (p : CpsrPos) (psr : Word) (n z : Bool) :
    statusBit (withNZ p psr n z) p.z = z :=
  statusBit_setStatusBit_self _ _ _

theorem sameStatusBut_withNZ (p : CpsrPos) (psr : Word) (n z : Bool) :
    SameStatusBut psr (withNZ p psr n z) [p.n, p.z] := by
  intro pos hpos
  simp only [List.mem_cons, List.not_mem_nil, or_false, not_or] at hpos
  obtain ⟨hn, hz⟩ := hpos
  exact statusBit_withNZ_of_ne p psr n z hn hz

theorem negativeFlag_eq_getLsbD (t : Word) : negativeFlag t = t.getLsbD 31 :=
  BitVec.msb_eq_getLsbD_last t

theorem zeroFlag_eq_decide (t : Word) : zeroFlag t = decide (t = 0#32) := rfl

/-- The N of `tst` is set when both operands are negative (R173). -/
theorem negativeFlag_and (a b : Word) :
    negativeFlag (a &&& b) = (a.getLsbD 31 && b.getLsbD 31) := by
  rw [negativeFlag_eq_getLsbD, BitVec.getLsbD_and]

/-- The N of `teq` is set when the sign bits differ (R174). -/
theorem negativeFlag_xor (a b : Word) :
    negativeFlag (a ^^^ b) = (a.getLsbD 31 != b.getLsbD 31) := by
  rw [negativeFlag_eq_getLsbD, BitVec.getLsbD_xor, Bool.bne_eq_xor]

/-- The Z of `teq` is set when the operands are equal (R174). -/
theorem zeroFlag_xor (a b : Word) : zeroFlag (a ^^^ b) = decide (a = b) := by
  rw [zeroFlag_eq_decide, decide_eq_decide]
  exact BitVec.xor_eq_zero_iff

/-! ### The frame of a status write -/

theorem onlyChanges_setCpsr_advance (s : State) (psr : Word) :
    OnlyChanges s (s.set .cpsr psr).advance (fun r => r = .pc ∨ r = .cpsr) noByte := by
  refine ⟨fun r hr => ?_, fun a _ => State.byte?_congr (by simp) (by simp) a,
    by simp, by simp, by simp, by simp⟩
  obtain ⟨hpc, hcpsr⟩ := not_or.mp hr
  rw [State.get_advance_of_ne _ hpc, State.get_set_of_ne s psr hcpsr]

/-- An instruction that answers the state with the CPSR written and the pc advanced writes the CPSR and
nothing else. -/
theorem writesStatus_of_exec {i : Instr} {s : State} {psr : Word}
    (h : exec i s = .next (s.set .cpsr psr).advance) : WritesStatus i s psr :=
  ⟨_, h, rfl, rfl, onlyChanges_setCpsr_advance s psr⟩

/-! ### Comparisons of the move grid -/

theorem exec_moveOf (op : MoveOp) (rd : RegNum) (o : MoveOperand) (s : State) :
    exec (moveOf op rd o) s = moveMeaning op rd o s :=
  exec_instr (.move op rd o) s

/-- `State.compare` completes in every mode. -/
theorem State.compare_of_mode {s : State} {m : Mode} (hm : s.mode = some m)
    (status : Params → Word → Word → Word → Word) (rd : RegNum) (o : MoveOperand) :
    s.compare status rd o =
      .next (s.set .cpsr (status s.params s.cpsr (s.readReg m rd) (s.moveOp2 m o))).advance := by
  rw [State.compare, State.inMode_of_mode hm]

/-- A mnemonic of the move grid that means a comparison writes its status word at `rd` and op2. -/
theorem writesStatus_moveOf {op : MoveOp} {status : Params → Word → Word → Word → Word} {s : State}
    {m : Mode} {rd : RegNum} {o : MoveOperand} (hm : s.mode = some m)
    (hop : moveMeaning op rd o s = s.compare status rd o) :
    WritesStatus (moveOf op rd o) s (status s.params s.cpsr (s.readReg m rd) (s.moveOp2 m o)) := by
  apply writesStatus_of_exec
  rw [exec_moveOf, hop, State.compare_of_mode hm]

/-- Settles O37: `tst` and `teq` write N and Z of the and, and of the exclusive or, and no other bit,
since the positions of N and Z are distinct. -/
theorem testResult : Obligations.TestResult := by
  refine ⟨fun s m rd o hm hpos => ⟨?tst, ?teq⟩, fun rd rm imm => ?opcodes, rfl, rfl⟩
  case tst =>
    refine ⟨_, writesStatus_moveOf hm rfl, ?_, ?_, sameStatusBut_withNZ _ _ _ _⟩
    · rw [testStatus, statusBit_withNZ_n hpos, negativeFlag_and]
    · rw [testStatus, statusBit_withNZ_z, zeroFlag_eq_decide]
  case teq =>
    refine ⟨_, writesStatus_moveOf hm rfl, ?_, ?_, sameStatusBut_withNZ _ _ _ _⟩
    · rw [testEqStatus, statusBit_withNZ_n hpos, negativeFlag_xor]
    · rw [testEqStatus, statusBit_withNZ_z, zeroFlag_xor]
  case opcodes =>
    exact ⟨Laws.OpcodeByte.tstReg rd rm, Laws.OpcodeByte.tstImm rd imm,
      Laws.OpcodeByte.teqReg rd rm, Laws.OpcodeByte.teqImm rd imm⟩

end Sys2Proof.Machine
end

section
/-! Proofs. What an instruction that only moves the pc leaves unchanged, the branch conditions one by one,
and the statement about the seven branches without link (43_branch.md R200 to R206). -/

namespace Sys2Proof.Machine

/-! ### The frame of a jump -/

theorem onlyChanges_setPc (s : State) (v : Word) :
    OnlyChanges s (s.set .pc v) (fun r => r = .pc) noByte :=
  ⟨fun _ hr => State.get_set_of_ne s v hr, fun a _ => State.byte?_congr (by simp) (by simp) a,
    by simp, by simp, by simp, by simp⟩

/-- An instruction that answers the state with the pc written jumps there. -/
theorem jumps_of_exec {i : Instr} {s : State} {v : Word} (h : exec i s = .next (s.set .pc v)) :
    Jumps i s v :=
  ⟨_, h, State.set_pc_pc s v, onlyChanges_setPc s v⟩

/-! ### The branch grid -/

theorem exec_branchOf (op : BranchOp) (d : Dest) (s : State) :
    exec (branchOf op d) s = branchMeaning op d s :=
  exec_instr (.branch op d) s

/-- Every mnemonic of the branch grid but `blr` means a branch without link. -/
theorem branchMeaning_of_ne_blr {op : BranchOp} (hop : op ≠ .blr) (d : Dest) (s : State) :
    branchMeaning op d s = s.branch op d := by
  cases op with
  | blr => exact absurd rfl hop
  | _ => rfl

/-- `State.branch` completes in every mode and writes the pc alone. -/
theorem State.branch_of_mode {s : State} {m : Mode} (hm : s.mode = some m) (op : BranchOp) (d : Dest) :
    s.branch op d = .next (s.set .pc
      (if branchTaken s.params.cpsrPos s.cpsr op then s.target m d else s.pc + 4#32)) := by
  rw [State.branch, State.inMode_of_mode hm]
  split
  · rfl
  · rw [State.advance_eq_set]

/-- A branch without link whose condition is `P` jumps to its target if `P` holds, else to the next
instruction. -/
theorem jumps_branchOf {op : BranchOp} {s : State} {m : Mode} {P : Prop} [Decidable P]
    (hm : s.mode = some m) (hop : op ≠ .blr)
    (hP : branchTaken s.params.cpsrPos s.cpsr op = true ↔ P) (d : Dest) :
    Jumps (branchOf op d) s (if P then s.target m d else s.pc + 4#32) := by
  apply jumps_of_exec
  rw [exec_branchOf, branchMeaning_of_ne_blr hop, State.branch_of_mode hm]
  simp only [hP]

/-! ### The condition of each mnemonic -/

section
variable (s : State)

theorem branchTaken_bal : branchTaken s.params.cpsrPos s.cpsr .bal = true ↔ True :=
  iff_true_intro rfl

theorem branchTaken_beq :
    branchTaken s.params.cpsrPos s.cpsr .beq = true ↔ s.flag s.params.cpsrPos.z = true :=
  Iff.rfl

theorem branchTaken_bne :
    branchTaken s.params.cpsrPos s.cpsr .bne = true ↔ s.flag s.params.cpsrPos.z = false :=
  (Bool.not_eq_true' _).to_iff

theorem branchTaken_blt :
    branchTaken s.params.cpsrPos s.cpsr .blt = true ↔
      s.flag s.params.cpsrPos.n ≠ s.flag s.params.cpsrPos.v :=
  bne_iff_ne

theorem branchTaken_ble :
    branchTaken s.params.cpsrPos s.cpsr .ble = true ↔
      s.flag s.params.cpsrPos.z = true ∨ s.flag s.params.cpsrPos.n ≠ s.flag s.params.cpsrPos.v :=
  Bool.or_eq_true_iff.trans (or_congr_right bne_iff_ne)

theorem branchTaken_bgt :
    branchTaken s.params.cpsrPos s.cpsr .bgt = true ↔
      s.flag s.params.cpsrPos.z = false ∧ s.flag s.params.cpsrPos.n = s.flag s.params.cpsrPos.v :=
  Bool.and_eq_true_iff.trans (and_congr (Bool.not_eq_true' _).to_iff beq_iff_eq)

theorem branchTaken_bge :
    branchTaken s.params.cpsrPos s.cpsr .bge = true ↔
      s.flag s.params.cpsrPos.n = s.flag s.params.cpsrPos.v :=
  beq_iff_eq

end

/-! ### The opcode bytes of the branch grid -/

theorem shape_branchOf (op : BranchOp) (d : Dest) : (branchOf op d).shape = .branch op d :=
  shape_instr (.branch op d)

/-- The high digit of a branch's opcode byte is its target form, the low digit its mnemonic (R90). -/
theorem opcodeField_branchOf (op : BranchOp) (d : Dest) :
    opcodeField defaultLayout (encode (branchOf op d)) =
      BitVec.ofNat 8 ((Shape.branch op d).highDigit * 16) + BitVec.ofNat 8 op.digit :=
  calc opcodeField defaultLayout (encode (branchOf op d))
      = (branchOf op d).opcode := Laws.opcodeByte_encode _
    _ = BitVec.ofNat 8 ((Shape.branch op d).highDigit * 16 + op.digit) := by
        rw [Instr.opcode, shape_branchOf, Shape.lowDigit]
    _ = _ := BitVec.ofNat_add _ _

/-- Settles O39: each branch without link writes the pc alone, with the target or the next instruction as
its condition on N, Z and V decides; its opcode byte is the digit of the target form over its own. -/
theorem branchResult : Obligations.BranchResult := by
  refine ⟨fun s m d hm => ⟨?bal, ?beq, ?bne, ?blt, ?ble, ?bgt, ?bge⟩, fun addr imm rd row hrow => ?opcodes,
    rfl, rfl, rfl, rfl, rfl, rfl, rfl, rfl⟩
  case bal => simpa only [if_true] using jumps_branchOf hm (by decide) (branchTaken_bal s) d
  case beq => exact jumps_branchOf hm (by decide) (branchTaken_beq s) d
  case bne => exact jumps_branchOf hm (by decide) (branchTaken_bne s) d
  case blt => exact jumps_branchOf hm (by decide) (branchTaken_blt s) d
  case ble => exact jumps_branchOf hm (by decide) (branchTaken_ble s) d
  case bgt => exact jumps_branchOf hm (by decide) (branchTaken_bgt s) d
  case bge => exact jumps_branchOf hm (by decide) (branchTaken_bge s) d
  case opcodes =>
    have hdigit : row.2 = BitVec.ofNat 8 row.1.digit := by
      revert row
      decide
    rw [hdigit]
    exact ⟨opcodeField_branchOf row.1 (.abs addr), opcodeField_branchOf row.1 (.ind rd),
      opcodeField_branchOf row.1 (.rel rd imm)⟩

end Sys2Proof.Machine
end

section
/-! Proofs. A cell with its operand fields read from a word, and the two directions in which the decoder
and the encoder agree (30_encoding.md R81, R82, R87 to R97). -/

namespace Sys2Proof

/-! ### A cell with its operands replaced by fields -/

/-- An address form with its operands taken from the fields of a word. -/
def AddrForm.withFields (f : Fields) : AddrForm → AddrForm
  | .abs _ => .abs f.imm20
  | .reg _ => .reg f.rm
  | .off _ _ => .off f.rm f.imm16
  | .idx _ _ => .idx f.rm f.rn
  | .preOff _ _ => .preOff f.rm f.imm16
  | .preIdx _ _ => .preIdx f.rm f.rn
  | .postOff _ _ => .postOff f.rm f.imm16
  | .postIdx _ _ => .postIdx f.rm f.rn
  | .scaled _ _ _ => .scaled f.rm f.rn f.imm12

/-- A kernel mode instruction with its operands taken from the fields of a word. -/
def KernelInstr.withFields (f : Fields) : KernelInstr → KernelInstr
  | .ker _ => .ker f.imm20
  | .srg _ _ => .srg (f.imm20.getLsbD 5) (f.imm20.extractLsb' 0 5)
  | .ioi _ => .ioi f.imm20
  | .rfi _ => .rfi f.imm20
  | .mkd _ _ => .mkd f.rd f.rm
  | .mks _ _ => .mks f.rd f.rm

/-- A cell with its operands taken from the fields of a word: what the decoder makes of a word with this
cell's opcode byte (`decodeShape_eq_some_iff`). -/
def Shape.withFields (f : Fields) : Shape → Shape
  | .loadStore op _ form => .loadStore op f.rd (form.withFields f)
  | .arith op _ _ (.reg _) => .arith op f.rd f.rm (.reg f.rn)
  | .arith op _ _ (.imm _) => .arith op f.rd f.rm (.imm f.imm16)
  | .move op _ (.reg _) => .move op f.rd (.reg f.rm)
  | .move op _ (.imm _) => .move op f.rd (.imm f.imm20)
  | .branch op (.abs _) => .branch op (.abs f.imm20)
  | .branch op (.ind _) => .branch op (.ind f.rd)
  | .branch op (.rel _ _) => .branch op (.rel f.rd f.imm20)
  | .kernel k => .kernel (k.withFields f)

/-! ### The decoder's tables and the digits -/

theorem decodeAddrForm_eq_some_iff (f : Fields) (digit : Nat) (form : AddrForm) :
    decodeAddrForm f digit = some form ↔ form.digit = digit ∧ form.withFields f = form := by
  constructor
  · intro h
    unfold decodeAddrForm at h
    split at h <;> cases h <;> exact ⟨rfl, rfl⟩
  · rintro ⟨rfl, h⟩
    rw [← h]
    cases form <;> rfl

theorem decodeArithOp_eq_some_iff (digit : Nat) (op : ArithOp) :
    decodeArithOp digit = some op ↔ op.digit = digit := by
  constructor
  · intro h
    unfold decodeArithOp at h
    split at h <;> cases h <;> rfl
  · rintro rfl
    cases op <;> rfl

theorem decodeMoveOp_eq_some_iff (digit : Nat) (op : MoveOp) :
    decodeMoveOp digit = some op ↔ op.digit = digit := by
  constructor
  · intro h
    unfold decodeMoveOp at h
    split at h <;> cases h <;> rfl
  · rintro rfl
    cases op <;> rfl

theorem decodeBranchOp_eq_some_iff (digit : Nat) (op : BranchOp) :
    decodeBranchOp digit = some op ↔ op.digit = digit := by
  constructor
  · intro h
    unfold decodeBranchOp at h
    split at h <;> cases h <;> rfl
  · rintro rfl
    cases op <;> rfl

theorem decodeKernel_eq_some_iff (f : Fields) (digit : Nat) (k : KernelInstr) :
    decodeKernel f digit = some k ↔ k.digit = digit ∧ k.withFields f = k := by
  constructor
  · intro h
    unfold decodeKernel at h
    split at h <;> cases h <;> exact ⟨rfl, rfl⟩
  · rintro ⟨rfl, h⟩
    rw [← h]
    cases k <;> rfl

/-- A cell's own digits decode to the cell with the operands of the fields. -/
theorem decodeShape_digits (f : Fields) (sh : Shape) :
    decodeShape f sh.highDigit sh.lowDigit = some (sh.withFields f) := by
  cases sh with
  | loadStore op rd form => cases op <;> cases form <;> rfl
  | arith op rd rm o => cases o <;> cases op <;> rfl
  | move op rd o => cases o <;> cases op <;> rfl
  | branch op d => cases d <;> cases op <;> rfl
  | kernel k => cases k <;> rfl

/-- What a decoded cell says of the digits and of the fields it was decoded from. -/
theorem decodeShape_some {f : Fields} {high low : Nat} {sh : Shape}
    (h : decodeShape f high low = some sh) :
    sh.highDigit = high ∧ sh.lowDigit = low ∧ sh.withFields f = sh := by
  unfold decodeShape at h
  split at h
  case h_13 => cases h
  all_goals
    obtain ⟨x, hx, rfl⟩ := Option.map_eq_some_iff.mp h
  case h_12 =>
    obtain ⟨hlow, hf⟩ := (decodeKernel_eq_some_iff f low x).mp hx
    exact ⟨rfl, hlow, congrArg Shape.kernel hf⟩
  case h_1 | h_2 | h_3 | h_4 =>
    obtain ⟨hlow, hf⟩ := (decodeAddrForm_eq_some_iff f low x).mp hx
    exact ⟨rfl, hlow, congrArg (Shape.loadStore _ f.rd) hf⟩
  case h_5 | h_6 => exact ⟨rfl, (decodeArithOp_eq_some_iff low x).mp hx, rfl⟩
  case h_7 | h_8 => exact ⟨rfl, (decodeMoveOp_eq_some_iff low x).mp hx, rfl⟩
  case h_9 | h_10 | h_11 => exact ⟨rfl, (decodeBranchOp_eq_some_iff low x).mp hx, rfl⟩

/-- The decoder selects a cell by the two digits and takes its operands from the fields. -/
theorem decodeShape_eq_some_iff (f : Fields) (high low : Nat) (sh : Shape) :
    decodeShape f high low = some sh ↔
      sh.highDigit = high ∧ sh.lowDigit = low ∧ sh.withFields f = sh := by
  constructor
  · exact decodeShape_some
  · rintro ⟨rfl, rfl, h⟩
    rw [decodeShape_digits, h]

/-! ### The opcode byte and its digits -/

theorem Shape.highDigit_lt (sh : Shape) : sh.highDigit < 16 := by
  cases sh with
  | loadStore op rd form => cases op <;> simp [Shape.highDigit, LoadStoreOp.digit]
  | arith op rd rm o => cases o <;> simp [Shape.highDigit]
  | move op rd o => cases o <;> simp [Shape.highDigit]
  | branch op d => cases d <;> simp [Shape.highDigit]
  | kernel k => simp [Shape.highDigit]

theorem Shape.lowDigit_lt (sh : Shape) : sh.lowDigit < 16 := by
  cases sh with
  | loadStore op rd form => cases form <;> simp [Shape.lowDigit, AddrForm.digit]
  | arith op rd rm o => cases op <;> simp [Shape.lowDigit, ArithOp.digit]
  | move op rd o => cases op <;> simp [Shape.lowDigit, MoveOp.digit]
  | branch op d => cases op <;> simp [Shape.lowDigit, BranchOp.digit]
  | kernel k => cases k <;> simp [Shape.lowDigit, KernelInstr.digit]

theorem Instr.opcode_toNat (i : Instr) :
    i.opcode.toNat = i.shape.highDigit * 16 + i.shape.lowDigit := by
  have hhigh := i.shape.highDigit_lt
  have hlow := i.shape.lowDigit_lt
  rw [Instr.opcode, BitVec.toNat_ofNat, Nat.mod_eq_of_lt (by omega)]

/-- A word decodes to the instructions that have its opcode byte and its fields. -/
theorem decodeWord_eq_ok_iff (l : Layout) (w : Word) (i : Instr) :
    decodeWord l w = .ok i ↔
      i.opcode = opcodeField l w ∧ i.shape.withFields (fieldsOf l w) = i.shape := by
  have hhigh := i.shape.highDigit_lt
  have hlow := i.shape.lowDigit_lt
  have hop : i.opcode = opcodeField l w ↔ i.shape.highDigit = (opcodeField l w).toNat / 16 ∧
      i.shape.lowDigit = (opcodeField l w).toNat % 16 := by
    rw [← BitVec.toNat_inj, i.opcode_toNat]
    omega
  rw [hop, and_assoc, ← decodeShape_eq_some_iff, decodeWord]
  constructor
  · intro h
    split at h
    · next sh hsh =>
      cases h
      rw [Machine.shape_instr, hsh]
    · cases h
  · intro h
    rw [h]
    simp only [Machine.instr_shape]

/-! ### Decode of encode -/

/-- `extract_placeField_apart` with the two sides of its hypothesis exchanged. -/
theorem extract_placeField_apart' {low n low' n' : Nat} (v : BitVec n')
    (h : low' + n' ≤ low ∨ low + n ≤ low') : (placeField low' v).extractLsb' low n = 0#n :=
  extract_placeField_apart v h.symm

section
variable {l : Layout} (h : l.wf = true) (op : BitVec 8)
include h

theorem fieldsOf_packF1 (rd rm rn : RegNum) :
    let f := fieldsOf l (placeField l.opcode op ||| packF1 l rd rm rn)
    f.rd = rd ∧ f.rm = rm ∧ f.rn = rn := by
  simp only [Layout.wf, Bool.and_eq_true, fieldsApart_iff, decide_eq_true_eq] at h
  simp [fieldsOf, packF1, extract_or, extract_placeField_self, extract_placeField_apart,
    extract_placeField_apart', h]

theorem fieldsOf_packF1A (rd rm rn : RegNum) (imm : BitVec 12) :
    let f := fieldsOf l (placeField l.opcode op ||| packF1A l rd rm rn imm)
    f.rd = rd ∧ f.rm = rm ∧ f.rn = rn ∧ f.imm12 = imm := by
  simp only [Layout.wf, Bool.and_eq_true, fieldsApart_iff, decide_eq_true_eq] at h
  simp [fieldsOf, packF1, packF1A, extract_or, extract_placeField_self, extract_placeField_apart,
    extract_placeField_apart', h]

theorem fieldsOf_packF2 (rd : RegNum) (imm : BitVec 20) :
    let f := fieldsOf l (placeField l.opcode op ||| packF2 l rd imm)
    f.rd = rd ∧ f.imm20 = imm := by
  simp only [Layout.wf, Bool.and_eq_true, fieldsApart_iff, decide_eq_true_eq] at h
  simp [fieldsOf, packF2, extract_or, extract_placeField_self, extract_placeField_apart,
    extract_placeField_apart', h]

theorem fieldsOf_packF3 (rd rm : RegNum) (imm : BitVec 16) :
    let f := fieldsOf l (placeField l.opcode op ||| packF3 l rd rm imm)
    f.rd = rd ∧ f.rm = rm ∧ f.imm16 = imm := by
  simp only [Layout.wf, Bool.and_eq_true, fieldsApart_iff, decide_eq_true_eq] at h
  simp [fieldsOf, packF3, extract_or, extract_placeField_self, extract_placeField_apart,
    extract_placeField_apart', h]

end

/-- The immediate of an `srg`: its bit 5 is the value and its bits 4:0 are the position (R93, R222). -/
theorem srg_imm_fields (value : Bool) (pos : BitVec 5) :
    ((BitVec.ofBool value ++ pos).setWidth 20).getLsbD 5 = value ∧
      ((BitVec.ofBool value ++ pos).setWidth 20).extractLsb' 0 5 = pos := by
  revert value pos
  decide

/-- A cell's operands are read back from its encoded word, format by format. -/
theorem withFields_encode {l : Layout} (h : l.wf = true) (op : BitVec 8) (sh : Shape) :
    sh.withFields (fieldsOf l (placeField l.opcode op ||| packShape l sh)) = sh := by
  have f1 := fieldsOf_packF1 h op
  have f1a := fieldsOf_packF1A h op
  have f2 := fieldsOf_packF2 h op
  have f3 := fieldsOf_packF3 h op
  cases sh with
  | loadStore _ rd form =>
    cases form <;>
      simp [Shape.withFields, AddrForm.withFields, packShape, packAddrForm, f1, f1a, f2, f3]
  | arith _ rd rm o => cases o <;> simp [Shape.withFields, packShape, f1, f3]
  | move _ rd o => cases o <;> simp [Shape.withFields, packShape, f1, f2]
  | branch _ d => cases d <;> simp [Shape.withFields, packShape, f2]
  | kernel k =>
    cases k <;> simp only [Shape.withFields, KernelInstr.withFields, packShape, packKernel, f1, f2,
      srg_imm_fields]

/-- Settles O2: the encoded word has the instruction's opcode byte, and every operand is read back from
its field since the fields of a format do not overlap. -/
theorem decodeOfEncodeIsTheInstruction : Obligations.DecodeOfEncodeIsTheInstruction := by
  intro l i h
  rw [decodeWord_eq_ok_iff]
  exact ⟨(opcodeField_encodeWith h i).symm, withFields_encode h i.opcode i.shape⟩

/-! ### Encode of decode -/

/-- A word cut to a field's bits is that field of the word, put back at its place. -/
theorem and_placeField {n : Nat} (w : Word) (low : Nat) (v : BitVec n) :
    w &&& placeField low v = placeField low (w.extractLsb' low n &&& v) := by
  ext j hj
  simp only [placeField, BitVec.getElem_and, BitVec.getElem_shiftLeft]
  by_cases hlow : j < low
  · simp [hlow]
  · have hadd : low + (j - low) = j := by omega
    by_cases hn : j - low < n
    · simp [hlow, hadd, hn, BitVec.getLsbD_eq_getElem hj]
    · simp [hlow, BitVec.getLsbD_of_ge v (j - low) (by omega)]

section
variable (l : Layout) (w : Word)

theorem and_packF1 (rd rm rn : RegNum) :
    w &&& packF1 l rd rm rn =
      packF1 l ((fieldsOf l w).rd &&& rd) ((fieldsOf l w).rm &&& rm) ((fieldsOf l w).rn &&& rn) := by
  simp only [packF1, BitVec.and_or_distrib_left, and_placeField, fieldsOf]

theorem and_packF1A (rd rm rn : RegNum) (imm : BitVec 12) :
    w &&& packF1A l rd rm rn imm =
      packF1A l ((fieldsOf l w).rd &&& rd) ((fieldsOf l w).rm &&& rm) ((fieldsOf l w).rn &&& rn)
        ((fieldsOf l w).imm12 &&& imm) := by
  simp only [packF1A, BitVec.and_or_distrib_left, and_placeField, and_packF1, fieldsOf]

theorem and_packF2 (rd : RegNum) (imm : BitVec 20) :
    w &&& packF2 l rd imm = packF2 l ((fieldsOf l w).rd &&& rd) ((fieldsOf l w).imm20 &&& imm) := by
  simp only [packF2, BitVec.and_or_distrib_left, and_placeField, fieldsOf]

theorem and_packF3 (rd rm : RegNum) (imm : BitVec 16) :
    w &&& packF3 l rd rm imm =
      packF3 l ((fieldsOf l w).rd &&& rd) ((fieldsOf l w).rm &&& rm) ((fieldsOf l w).imm16 &&& imm) := by
  simp only [packF3, BitVec.and_or_distrib_left, and_placeField, fieldsOf]

end

/-- The bits of its immediate that an `srg` uses. -/
theorem srg_imm_used (imm : BitVec 20) :
    imm &&& (BitVec.ofBool true ++ 31#5).setWidth 20 =
      (BitVec.ofBool (imm.getLsbD 5) ++ imm.extractLsb' 0 5).setWidth 20 := by
  refine BitVec.eq_of_getLsbD_eq fun j hj => ?_
  simp only [BitVec.getLsbD_and, BitVec.getLsbD_setWidth, BitVec.getLsbD_append,
    BitVec.getLsbD_ofBool, BitVec.getLsbD_extractLsb']
  interval_cases j <;> simp

/-- A word cut to the operand bits that a cell uses holds the operands read from its fields. -/
theorem and_packShape_allOnes (l : Layout) (w : Word) (sh : Shape) :
    w &&& packShape l sh.allOnes = packShape l (sh.withFields (fieldsOf l w)) := by
  have h4 : ∀ x : RegNum, x &&& 15#4 = x := fun _ => BitVec.and_allOnes
  have h0 : ∀ {n : Nat} (x : BitVec n), x &&& 0 = 0 := fun _ => BitVec.and_zero
  cases sh with
  | loadStore _ rd form =>
    cases form <;>
      simp only [Shape.withFields, AddrForm.withFields, Shape.allOnes, packShape, packAddrForm,
        and_packF1, and_packF1A, and_packF2, and_packF3, h4, h0, BitVec.and_allOnes]
  | arith _ rd rm o =>
    cases o <;> simp only [Shape.withFields, Shape.allOnes, packShape, and_packF1, and_packF3, h4,
      BitVec.and_allOnes]
  | move _ rd o =>
    cases o <;> simp only [Shape.withFields, Shape.allOnes, packShape, and_packF1, and_packF2, h4, h0,
      BitVec.and_allOnes]
  | branch _ d =>
    cases d <;> simp only [Shape.withFields, Shape.allOnes, packShape, and_packF2, h4, h0,
      BitVec.and_allOnes]
  | kernel k =>
    cases k <;> simp only [Shape.withFields, KernelInstr.withFields, Shape.allOnes, packShape,
      packKernel, and_packF1, and_packF2, h4, h0, srg_imm_used, BitVec.and_allOnes]

/-- Settles O3: the decoder reads the opcode byte and the operands off the word, so putting them back gives
the word on the bits they stand in. -/
theorem decodedWordAgreesWithEncodingOnUsedBits :
    Obligations.DecodedWordAgreesWithEncodingOnUsedBits := by
  intro l w i _ h
  obtain ⟨hop, hfields⟩ := (decodeWord_eq_ok_iff l w i).mp h
  have hcut : w &&& placeField l.opcode 255#8 = placeField l.opcode i.opcode := by
    rw [and_placeField, show (255#8 : BitVec 8) = BitVec.allOnes 8 from rfl, BitVec.and_allOnes, hop,
      opcodeField]
  rw [usedBits, BitVec.and_or_distrib_left, hcut, and_packShape_allOnes, hfields, encodeWith]

/-! ### The illegal opcode bytes -/

/-- Whether the decoder has a cell for two digits does not depend on the operand fields. -/
theorem isSome_decodeShape (f g : Fields) (high low : Nat) :
    (decodeShape f high low).isSome = (decodeShape g high low).isSome := by
  have hlt : ∀ f' g', (decodeShape f' high low).isSome → (decodeShape g' high low).isSome := by
    intro f' g' h
    obtain ⟨sh, hsh⟩ := Option.isSome_iff_exists.mp h
    obtain ⟨rfl, rfl, -⟩ := decodeShape_some hsh
    rw [decodeShape_digits]
    rfl
  exact Bool.eq_iff_iff.mpr ⟨hlt f g, hlt g f⟩

/-- R97's ranges are the bytes without a cell, checked byte by byte. -/
theorem isSome_decodeShape_zero_iff (b : BitVec 8) :
    (decodeShape ⟨0, 0, 0, 0, 0, 0⟩ (b.toNat / 16) (b.toNat % 16)).isSome = false ↔
      ∃ r ∈ [(0x00, 0x0f), (0x19, 0x1f), (0x29, 0x2f), (0x39, 0x3f), (0x49, 0x4f), (0x5e, 0x5f),
          (0x6e, 0x6f), (0x7c, 0x7f), (0x8c, 0x8f), (0x98, 0x9f), (0xa8, 0xaf), (0xb8, 0xbf),
          (0xc6, 0xff)],
        r.1 ≤ b.toNat ∧ b.toNat ≤ r.2 := by
  revert b
  decide

theorem decodeWord_error {l : Layout} {w : Word} {e : DecodeError} (h : decodeWord l w = .error e) :
    e = .illegalOpcode w := by
  unfold decodeWord at h
  split at h <;> cases h
  rfl

theorem decodeWord_error_iff (l : Layout) (w : Word) :
    decodeWord l w = .error (.illegalOpcode w) ↔
      (decodeShape (fieldsOf l w) ((opcodeField l w).toNat / 16)
        ((opcodeField l w).toNat % 16)).isSome = false := by
  unfold decodeWord
  split <;> simp_all

/-- Settles O4: the decoder has a cell for an opcode byte whatever the operand bits, so the 256 bytes are
checked with the operands 0. -/
theorem illegalOpcodeBytesAreThose138 : Obligations.IllegalOpcodeBytesAreThose138 := by
  refine ⟨fun l w => ?_, fun l w e h => decodeWord_error h⟩
  rw [decodeWord_error_iff, isSome_decodeShape _ ⟨0, 0, 0, 0, 0, 0⟩, isSome_decodeShape_zero_iff]

/-- Settles O1: each word's decoding evaluates. -/
theorem decodeReadsTheSpecsWords : Obligations.DecodeReadsTheSpecsWords := by
  unfold Obligations.DecodeReadsTheSpecsWords
  decide

end Sys2Proof
end

section
/-! Proofs. Everything an instruction can do to the parameters, the memory and the status register, grid by
grid; and from it the statements about every step: the invariant, the confinement of user mode, and who
writes the condition flags (10_state.md section 4, 20_memory.md section 2, 44_kernel.md). -/

namespace Sys2Proof.Machine

/-! ### What each cell of the grids can do -/

/-- Consecutive bytes written at addresses of `MemMap`. -/
def StoresInMap (regions : List Region) (mem mem' : Memory) : Prop :=
  ∃ a bytes, a + bytes.length ≤ 2 ^ 32 ∧ (∀ k, k < bytes.length → inMap regions (a + k) = true) ∧
    mem' = mem.writeList a bytes

/-- The status positions that a comparison writes. -/
def comparedPositions (p : Params) (op : MoveOp) : List (BitVec 5) :=
  if op = .cmp ∧ p.cmpWritesCV = true then
    [p.cpsrPos.n, p.cpsrPos.z, p.cpsrPos.c, p.cpsrPos.v]
  else [p.cpsrPos.n, p.cpsrPos.z]

theorem sameStatusBut_compareStatus (p : Params) (psr a b : Word) :
    SameStatusBut psr (compareStatus p psr a b) (comparedPositions p .cmp) := by
  unfold compareStatus comparedPositions
  cases p.cmpWritesCV with
  | false => exact sameStatusBut_withNZ _ _ _ _
  | true =>
    intro pos hpos
    simp only [and_self, if_true, List.mem_cons, List.not_mem_nil, or_false, not_or] at hpos
    obtain ⟨hn, hz, hc, hv⟩ := hpos
    simp only [if_true]
    rw [statusBit_withCV_of_ne _ _ _ _ hc hv, statusBit_withNZ_of_ne _ _ _ _ hn hz]

/-- All that the instruction of a cell can turn a state of mode `m` into (`exec_effect`). -/
inductive Effect (s : State) (m : Mode) : Shape → State → Prop
  | load (op : LoadStoreOp) (rd : RegNum) (form : AddrForm) (v : Word) :
    Effect s m (.loadStore op rd form)
      ((s.applyUpdate m (s.baseUpdate m form)).writeReg m rd v).advance
  | store (op : LoadStoreOp) (rd : RegNum) (form : AddrForm) (mem : Memory) :
    StoresInMap s.params.memMap s.mem mem →
    Effect s m (.loadStore op rd form)
      ({ s with mem := mem }.applyUpdate m (s.baseUpdate m form)).advance
  /-- A division by zero may draw a free value. -/
  | arith (op : ArithOp) (rd rm : RegNum) (o : ArithOperand) (v : Word) (n : Nat) :
    Effect s m (.arith op rd rm o) { (s.writeReg m rd v).advance with draws := n }
  | move (op : MoveOp) (rd : RegNum) (o : MoveOperand) (v : Word) :
    Effect s m (.move op rd o) (s.writeReg m rd v).advance
  | compare (op : MoveOp) (rd : RegNum) (o : MoveOperand) (psr : Word) :
    op.writesRd = false → SameStatusBut s.cpsr psr (comparedPositions s.params op) →
    Effect s m (.move op rd o) (s.set .cpsr psr).advance
  | branch (op : BranchOp) (d : Dest) (a : Word) : Effect s m (.branch op d) (s.set .pc a)
  | branchLink (op : BranchOp) (d : Dest) (a : Word) :
    Effect s m (.branch op d) ((s.writeReg m 14#4 (s.pc + 4#32)).set .pc a)
  | ker (imm : BitVec 20) :
    Effect s m (.kernel (.ker imm))
      ((s.set (.gpr 0) (extend s.params.kerImmExt imm)).enter .kernelCall (s.pc + 4#32))
  | srg (value : Bool) (pos : BitVec 5) : (s.params.privCheck = false ∨ m ≠ .user) →
    Effect s m (.kernel (.srg value pos)) (s.set .cpsr (setStatusBit s.cpsr pos value)).advance
  | ioi (location : BitVec 20) (regs : List Word) (cells : List Host.Cell) (history : List IoStep) :
    (s.params.privCheck = false ∨ m ≠ .user) →
    Effect s m (.kernel (.ioi location))
      { (s.writeGeneralRegs m 0 regs).advance with
        mem := memoryOf s.params.memMap cells
        ioHistory := history }
  | rfi (imm : BitVec 20) (e : Event) : m ≠ .user → Effect s m (.kernel (.rfi imm)) (s.leave e)
  | mkd (krd rm : RegNum) : (s.params.privCheck = false ∨ m ≠ .user) →
    Effect s m (.kernel (.mkd krd rm)) (s.set (kernelHome krd) (s.readReg m rm)).advance
  | mks (rd krm : RegNum) : (s.params.privCheck = false ∨ m ≠ .user) →
    Effect s m (.kernel (.mks rd krm)) (s.writeReg m rd (s.get (kernelHome krm))).advance

/-! ### Every instruction that completes has one of these effects -/

theorem wordInMap_iff (regions : List Region) (a : Nat) :
    wordInMap regions a = true ↔ ∀ k, k < 4 → inMap regions (a + k) = true := by
  simp only [wordInMap, Bool.and_eq_true]
  constructor
  · rintro ⟨⟨⟨h0, h1⟩, h2⟩, h3⟩ k hk
    interval_cases k
    exacts [h0, h1, h2, h3]
  · intro h
    exact ⟨⟨⟨h 0 (by decide), h 1 (by decide)⟩, h 2 (by decide)⟩, h 3 (by decide)⟩

theorem storesInMap_of_storeWord {s t : State} {a v : Word} (h : s.storeWord a v = .ok t) :
    StoresInMap s.params.memMap s.mem t.mem ∧ t = { s with mem := t.mem } := by
  obtain ⟨halign, hmap, rfl⟩ := State.storeWord_ok h
  have hlt := a.isLt
  refine ⟨⟨a.toNat, _, ?_, ?_, rfl⟩, rfl⟩
  · rw [bytesOfWord_length]; omega
  · rw [bytesOfWord_length]; exact (wordInMap_iff _ _).mp hmap

theorem storesInMap_of_storeByte {s t : State} {a v : Word} (h : s.storeByte a v = .ok t) :
    StoresInMap s.params.memMap s.mem t.mem ∧ t = { s with mem := t.mem } := by
  obtain ⟨hmap, rfl⟩ := State.storeByte_ok h
  refine ⟨⟨a.toNat, [v.extractLsb' 0 8], a.isLt, fun k hk => ?_, rfl⟩, rfl⟩
  obtain rfl : k = 0 := by simpa using hk
  exact hmap

section
variable {s t : State}

theorem effect_of_load {read : Word → Except Fault Word} {op : LoadStoreOp} {rd : RegNum}
    {form : AddrForm} (h : s.load read rd form = .next t) :
    ∃ m, s.mode = some m ∧ Effect s m (.loadStore op rd form) t := by
  obtain ⟨m, v, hm, -, -, -, -, rfl⟩ := State.load_next h
  exact ⟨m, hm, .load op rd form v⟩

theorem effect_of_store {write : Word → Word → Except Fault State} {op : LoadStoreOp} {rd : RegNum}
    {form : AddrForm}
    (hwrite : ∀ a v t, write a v = .ok t →
      StoresInMap s.params.memMap s.mem t.mem ∧ t = { s with mem := t.mem })
    (h : s.store write rd form = .next t) :
    ∃ m, s.mode = some m ∧ Effect s m (.loadStore op rd form) t := by
  obtain ⟨m, s', hm, -, -, hw, rfl⟩ := State.store_next h
  obtain ⟨hmem, hs'⟩ := hwrite _ _ _ hw
  rw [hs']
  exact ⟨m, hm, .store op rd form s'.mem hmem⟩

theorem effect_of_arith {f : Word → Word → Word} {op : ArithOp} {rd rm : RegNum} {o : ArithOperand}
    (h : s.arith f rd rm o = .next t) : ∃ m, s.mode = some m ∧ Effect s m (.arith op rd rm o) t := by
  obtain ⟨m, hm, -, rfl⟩ := State.arith_next h
  exact ⟨m, hm, .arith op rd rm o _ _⟩

theorem effect_of_divide {f : Word → Word → Word} {op : ArithOp} {rd rm : RegNum} {o : ArithOperand}
    (h : s.divide f rd rm o = .next t) :
    ∃ m, s.mode = some m ∧ Effect s m (.arith op rd rm o) t := by
  obtain ⟨m, hm, -, ⟨-, rfl⟩ | ⟨-, -, rfl⟩⟩ := State.divide_next h
  · exact ⟨m, hm, .arith op rd rm o _ _⟩
  · exact ⟨m, hm, .arith op rd rm o _ _⟩

theorem effect_of_move {f : Word → Word → Word} {op : MoveOp} {rd : RegNum} {o : MoveOperand}
    (h : s.move f rd o = .next t) : ∃ m, s.mode = some m ∧ Effect s m (.move op rd o) t := by
  obtain ⟨m, hm, -, rfl⟩ := State.move_next h
  exact ⟨m, hm, .move op rd o _⟩

theorem effect_of_compare {status : Params → Word → Word → Word → Word} {op : MoveOp} {rd : RegNum}
    {o : MoveOperand} (hop : op.writesRd = false)
    (hstatus : ∀ psr a b, SameStatusBut psr (status s.params psr a b) (comparedPositions s.params op))
    (h : s.compare status rd o = .next t) :
    ∃ m, s.mode = some m ∧ Effect s m (.move op rd o) t := by
  obtain ⟨m, hm, rfl⟩ := State.compare_next h
  exact ⟨m, hm, .compare op rd o _ hop (hstatus _ _ _)⟩

theorem arithMeaning_effect {op : ArithOp} {rd rm : RegNum} {o : ArithOperand}
    (h : arithMeaning op rd rm o s = .next t) :
    ∃ m, s.mode = some m ∧ Effect s m (.arith op rd rm o) t := by
  cases op with
  | add | sub | mul | and | orr | eor | adc | sbc => exact effect_of_arith h
  | div | mod => exact effect_of_divide h
  | adf | suf | muf | dif =>
    cases o with
    | reg rn => exact effect_of_arith h
    | imm imm => exact absurd h (State.floatImmediate_ne_next s t rd)

theorem moveMeaning_effect {op : MoveOp} {rd : RegNum} {o : MoveOperand}
    (h : moveMeaning op rd o s = .next t) :
    ∃ m, s.mode = some m ∧ Effect s m (.move op rd o) t := by
  cases op with
  | mov => exact effect_of_move (f := fun _ b => b) h
  | shf => exact effect_of_move (f := shiftLogical) h
  | sha => exact effect_of_move (f := shiftArithmetic) h
  | rot => exact effect_of_move (f := rotate) h
  | one => exact effect_of_move (f := fun _ b => ~~~b) h
  | itf => exact effect_of_move (f := fun _ b => Config.iToF b) h
  | mva =>
    obtain ⟨m, hm, -, rfl⟩ := State.moveAddress_next h
    exact ⟨m, hm, .move .mva rd o _⟩
  | cmp => exact effect_of_compare rfl (sameStatusBut_compareStatus _) h
  | tst =>
    exact effect_of_compare (status := testStatus) rfl (fun _ _ _ => sameStatusBut_withNZ _ _ _ _) h
  | teq =>
    exact effect_of_compare (status := testEqStatus) rfl (fun _ _ _ => sameStatusBut_withNZ _ _ _ _) h
  | fti =>
    cases o with
    | reg rm => exact effect_of_move (f := fun _ b => Config.fToI b) h
    | imm imm => exact absurd h (State.floatImmediate_ne_next s t rd)
  | cmf =>
    cases o with
    | reg rm =>
      exact effect_of_compare (status := floatCompareStatus) rfl
        (fun _ _ _ => sameStatusBut_withNZ _ _ _ _) h
    | imm imm => exact absurd h (State.floatCompareImmediate_ne_next s t)

theorem branchMeaning_effect {op : BranchOp} {d : Dest} (h : branchMeaning op d s = .next t) :
    ∃ m, s.mode = some m ∧ Effect s m (.branch op d) t := by
  by_cases hop : op = .blr
  · subst hop
    obtain ⟨m, hm, rfl⟩ := State.branchLink_next h
    exact ⟨m, hm, .branchLink .blr d _⟩
  · rw [branchMeaning_of_ne_blr hop] at h
    obtain ⟨m, hm, rfl⟩ := State.branch_next h
    exact ⟨m, hm, .branch op d _⟩

theorem kernel_effect {k : KernelInstr} (h : execShape (.kernel k) s = .next t) :
    ∃ m, s.mode = some m ∧ Effect s m (.kernel k) t := by
  cases k with
  | ker imm =>
    obtain ⟨hm, -, -, rfl⟩ := execKer_next h
    exact ⟨.user, hm, .ker imm⟩
  | srg value pos =>
    obtain ⟨m, hm, hp, rfl⟩ := execSrg_next h
    exact ⟨m, hm, .srg value pos hp⟩
  | ioi location =>
    obtain ⟨m, hm, hp, -, rfl⟩ := execIoi_next h
    exact ⟨m, hm, .ioi location _ _ _ hp⟩
  | rfi imm =>
    obtain ⟨-, hm, rfl⟩ | ⟨-, hm, rfl⟩ := execRfi_next h
    · exact ⟨.kernel, hm, .rfi imm _ (by decide)⟩
    · exact ⟨.interrupt, hm, .rfi imm _ (by decide)⟩
  | mkd krd rm =>
    obtain ⟨m, hm, hp, -, rfl⟩ := execMkd_next h
    exact ⟨m, hm, .mkd krd rm hp⟩
  | mks rd krm =>
    obtain ⟨m, hm, hp, -, -, rfl⟩ := execMks_next h
    exact ⟨m, hm, .mks rd krm hp⟩

/-- Every instruction that completes has one of its cell's effects. -/
theorem exec_effect {i : Instr} (h : exec i s = .next t) :
    ∃ m, s.mode = some m ∧ Effect s m i.shape t := by
  rw [exec_eq_execShape] at h
  cases hsh : i.shape with
  | loadStore op rd form =>
    rw [hsh] at h
    cases op with
    | ldr | ldb => exact effect_of_load h
    | str => exact effect_of_store (write := s.storeWord) (fun _ _ _ => storesInMap_of_storeWord) h
    | stb => exact effect_of_store (write := s.storeByte) (fun _ _ _ => storesInMap_of_storeByte) h
  | arith op rd rm o => rw [hsh] at h; exact arithMeaning_effect h
  | move op rd o => rw [hsh] at h; exact moveMeaning_effect h
  | branch op d => rw [hsh] at h; exact branchMeaning_effect h
  | kernel k => rw [hsh] at h; exact kernel_effect h

end

/-! ### Fields under a base update and under a write of all general registers -/

section
variable (s : State) (m : Mode) (u : Option (RegNum × Word))

@[simp] theorem State.applyUpdate_mem : (s.applyUpdate m u).mem = s.mem := by
  cases u <;> simp [State.applyUpdate]

@[simp] theorem State.applyUpdate_params : (s.applyUpdate m u).params = s.params := by
  cases u <;> simp [State.applyUpdate]

@[simp] theorem State.applyUpdate_cpsr : (s.applyUpdate m u).cpsr = s.cpsr := by
  cases u <;> simp [State.applyUpdate, State.writeReg_cpsr]

end

theorem State.writeGeneralRegs_params (m : Mode) (values : List Word) :
    ∀ (s : State) (n : Nat), (s.writeGeneralRegs m n values).params = s.params := by
  induction values with
  | nil => intro s n; rfl
  | cons v rest ih => intro s n; rw [State.writeGeneralRegs, ih, State.writeReg_params]

theorem State.writeGeneralRegs_cpsr (m : Mode) (values : List Word) :
    ∀ (s : State) (n : Nat), (s.writeGeneralRegs m n values).cpsr = s.cpsr := by
  induction values with
  | nil => intro s n; rfl
  | cons v rest ih => intro s n; rw [State.writeGeneralRegs, ih, State.writeReg_cpsr]

/-! ### The parameters and the memory -/

theorem Effect.params {s t : State} {m : Mode} {sh : Shape} (h : Effect s m sh t) :
    t.params = s.params := by
  cases h with
  | ioi location regs cells history _ => exact State.writeGeneralRegs_params m regs s 0
  | _ => simp

/-- No instruction writes the parameters. -/
theorem exec_params {i : Instr} {s t : State} (h : exec i s = .next t) : t.params = s.params := by
  obtain ⟨m, -, he⟩ := exec_effect h
  exact he.params

/-- All that an instruction can do to the memory: nothing, a store inside `MemMap`, or, for `ioi`, the
memory of the device's answer cut to `MemMap`. -/
theorem Effect.mem {s t : State} {m : Mode} {sh : Shape} (h : Effect s m sh t) :
    t.mem = s.mem ∨ StoresInMap s.params.memMap s.mem t.mem ∨
      ∃ cells, t.mem = memoryOf s.params.memMap cells := by
  cases h with
  | store op rd form mem hmem => exact .inr (.inl (by simpa using hmem))
  | ioi location regs cells history _ => exact .inr (.inr ⟨cells, rfl⟩)
  | _ => exact .inl (by simp)

/-- The part of the invariant about the memory: canonical, and inside `MemMap`. -/
def MemoryInMap (regions : List Region) (mem : Memory) : Prop :=
  mem.wf = true ∧ ∀ c ∈ mem, inMap regions c.1 = true

theorem State.wf_iff (s : State) :
    s.wf = true ↔ paramsWf s.params = true ∧ MemoryInMap s.params.memMap s.mem := by
  simp only [State.wf, MemoryInMap, Bool.and_eq_true, List.all_eq_true, and_assoc]

theorem memoryInMap_memoryOf (regions : List Region) (cells : List Host.Cell) :
    MemoryInMap regions (memoryOf regions cells) :=
  ⟨memoryOf_wf regions cells, memoryOf_inMap regions cells⟩

/-- An address in a memory after a write of consecutive bytes is a written one or was there before. -/
theorem Memory.mem_writeList (bytes : List Byte) :
    ∀ {mem : Memory} {a : Nat} {c : Host.Cell}, c ∈ mem.writeList a bytes →
      (∃ k, k < bytes.length ∧ c.1 = a + k) ∨ c ∈ mem := by
  induction bytes with
  | nil => intro mem a c h; exact .inr h
  | cons b rest ih =>
    intro mem a c h
    rcases ih h with ⟨k, hk, hc⟩ | h
    · exact .inl ⟨k + 1, by simpa using hk, by omega⟩
    · rcases Memory.mem_write h with rfl | h
      · exact .inl ⟨0, by simp, rfl⟩
      · exact .inr h

theorem MemoryInMap.of_storesInMap {regions : List Region} {mem mem' : Memory}
    (h : MemoryInMap regions mem) (hs : StoresInMap regions mem mem') : MemoryInMap regions mem' := by
  obtain ⟨hwf, hin⟩ := h
  obtain ⟨a, bytes, hle, hbytes, rfl⟩ := hs
  refine ⟨Memory.wf_writeList bytes hle hwf, fun c hc => ?_⟩
  rcases Memory.mem_writeList bytes hc with ⟨k, hk, hck⟩ | hc
  · rw [hck]; exact hbytes k hk
  · exact hin c hc

/-- Every instruction keeps the invariant. -/
theorem exec_wf {i : Instr} {s t : State} (hs : s.wf = true) (h : exec i s = .next t) :
    t.wf = true := by
  obtain ⟨m, -, he⟩ := exec_effect h
  obtain ⟨hp, hmem⟩ := (State.wf_iff s).mp hs
  rw [State.wf_iff, he.params]
  refine ⟨hp, ?_⟩
  rcases he.mem with hsame | hstore | ⟨cells, hcells⟩
  · rw [hsame]; exact hmem
  · exact hmem.of_storesInMap hstore
  · rw [hcells]; exact memoryInMap_memoryOf _ _

/-! ### The boundary between two instructions -/

@[simp] theorem State.timerMove_params (s : State) : s.timerMove.params = s.params := by
  obtain ⟨b, n, h⟩ := s.timerMove_eq
  rw [h]

@[simp] theorem State.timerMove_mem (s : State) : s.timerMove.mem = s.mem := by
  obtain ⟨b, n, h⟩ := s.timerMove_eq
  rw [h]

@[simp] theorem State.takeTimer_params (s : State) : s.takeTimer.params = s.params :=
  State.enter_params s .timer s.pc

@[simp] theorem State.takeTimer_mem (s : State) : s.takeTimer.mem = s.mem :=
  State.enter_mem s .timer s.pc

theorem State.wf_congr {s t : State} (hp : t.params = s.params) (hm : t.mem = s.mem) :
    t.wf = s.wf := by
  simp only [State.wf, hp, hm]

/-- Settles O54: the timer's move and its interrupt touch neither the parameters nor the memory, and an
instruction stores only inside `MemMap` or takes a memory cut to it. -/
theorem stepKeepsTheInvariant : Obligations.StepKeepsTheInvariant := by
  intro s t hs h
  rcases step_next h with ⟨-, rfl⟩ | ⟨-, -, rfl⟩ | ⟨-, -, w, i, -, -, hexec⟩
  · exact ⟨by rw [State.wf_congr (s := s) (by simp) (by simp), hs], by simp⟩
  · exact ⟨hs, rfl⟩
  · have hmove : s.timerMove.wf = true := by
      rw [State.wf_congr (s := s) (by simp) (by simp), hs]
    exact ⟨exec_wf hmove hexec, by rw [exec_params hexec, State.timerMove_params]⟩

end Sys2Proof.Machine
end

section
/-! Proofs. What an instruction does to the status register and, in user mode, to the registers; and the
statements about user mode and about the condition flags (10_state.md section 4, 44_kernel.md). -/

namespace Sys2Proof.Machine

/-! ### The positions of the flags are apart -/

section
variable {p : CpsrPos} (hp : cpsrPosWf p = true)
include hp

theorem cpsrPos_nodup : [p.n, p.z, p.c, p.v, p.u, p.k, p.i, p.os].Nodup := by
  simpa only [cpsrPosWf, decide_eq_true_eq] using hp

/-- None of N, Z, C and V stands at the position of a mode flag. -/
theorem conditionFlags_disjoint : [p.n, p.z, p.c, p.v].Disjoint [p.u, p.k, p.i] :=
  List.disjoint_of_subset_right (List.subset_append_left [p.u, p.k, p.i] [p.os])
    (List.disjoint_of_nodup_append (l₁ := [p.n, p.z, p.c, p.v]) (cpsrPos_nodup hp))

theorem nz_disjoint_cv : [p.n, p.z].Disjoint [p.c, p.v, p.u, p.k, p.i, p.os] :=
  List.disjoint_of_nodup_append (cpsrPos_nodup hp)

end

/-! ### The status register -/

theorem kernelHome_eq_cpsr {n : RegNum} (h : kernelHome n = .cpsr) : n = 0#4 := by
  revert n
  decide

theorem sameStatusBut_withMode (p : CpsrPos) (psr : Word) (m : Mode) :
    SameStatusBut psr (withMode p psr m) [p.u, p.k, p.i] := by
  intro pos hpos
  simp only [List.mem_cons, List.not_mem_nil, or_false, not_or] at hpos
  obtain ⟨hu, hk, hi⟩ := hpos
  exact statusBit_withMode_of_ne p psr m hu hk hi

/-- All that an instruction other than `srg`, `mkd` to kr0 and `rfi` can do to the CPSR: nothing, the mode
flags for `ker`, and the condition flags that it writes for a comparison. -/
theorem Effect.cpsr {s t : State} {m : Mode} {sh : Shape} (h : Effect s m sh t)
    (hsrg : ∀ value pos, sh ≠ .kernel (.srg value pos)) (hmkd : ∀ rm, sh ≠ .kernel (.mkd 0#4 rm))
    (hrfi : ∀ imm, sh ≠ .kernel (.rfi imm)) :
    t.cpsr = s.cpsr ∨
      ((∃ imm, sh = .kernel (.ker imm)) ∧ SameStatusBut s.cpsr t.cpsr
        [s.params.cpsrPos.u, s.params.cpsrPos.k, s.params.cpsrPos.i]) ∨
      ∃ op rd o, sh = .move op rd o ∧ op.writesRd = false ∧
        SameStatusBut s.cpsr t.cpsr (comparedPositions s.params op) := by
  cases h with
  | compare op rd o psr hop hpsr => exact .inr (.inr ⟨op, rd, o, rfl, hop, hpsr⟩)
  | ker imm => exact .inr (.inl ⟨⟨imm, rfl⟩, sameStatusBut_withMode _ _ _⟩)
  | srg value pos _ => exact absurd rfl (hsrg value pos)
  | rfi imm e _ => exact absurd rfl (hrfi imm)
  | ioi location regs cells history _ => exact .inl (State.writeGeneralRegs_cpsr m regs s 0)
  | mkd krd rm _ =>
    have hne : kernelHome krd ≠ .cpsr := fun e => by
      obtain rfl := kernelHome_eq_cpsr e
      exact hmkd rm rfl
    exact .inl (State.set_cpsr_of_ne s _ hne)
  | branch op d a => exact .inl rfl
  | _ => exact .inl (by simp [State.writeReg_cpsr, State.set_cpsr_of_ne])

/-- The mode is that of the flags U, K and I alone. -/
theorem modeOf_eq_of_sameStatusBut {p : CpsrPos} {psr psr' : Word} {positions : List (BitVec 5)}
    (h : SameStatusBut psr psr' positions) (hdisj : positions.Disjoint [p.u, p.k, p.i]) :
    modeOf p psr' = modeOf p psr := by
  have hu := h p.u fun hin => hdisj hin (by simp)
  have hk := h p.k fun hin => hdisj hin (by simp)
  have hi := h p.i fun hin => hdisj hin (by simp)
  simp only [modeOf, hu, hk, hi]

theorem comparedPositions_subset (p : Params) (op : MoveOp) :
    comparedPositions p op ⊆ [p.cpsrPos.n, p.cpsrPos.z, p.cpsrPos.c, p.cpsrPos.v] := by
  unfold comparedPositions
  split
  · exact List.Subset.refl _
  · exact List.subset_append_left [_, _] [_, _]

theorem SameStatusBut.mono {psr psr' : Word} {l l' : List (BitVec 5)} (h : SameStatusBut psr psr' l)
    (hsub : l ⊆ l') : SameStatusBut psr psr' l' :=
  fun pos hpos => h pos fun hin => hpos (hsub hin)

/-! ### The registers and the hidden fields in user mode -/

/-- From `s` to `t` no register but the pc, the CPSR and the user bank has changed, and neither the I/O
history nor the pending bit. -/
def UserFrame (s t : State) : Prop :=
  (∀ r, r ≠ .pc → r ≠ .cpsr → (∀ n, r ≠ .gpr n) → t.get r = s.get r) ∧
    t.ioHistory = s.ioHistory ∧ t.timerPending = s.timerPending

theorem home_user_cases (b : Banking) (r : RegNum) :
    home b .user r = .pc ∨ ∃ n, home b .user r = .gpr n := by
  have hbank : bankedHome b .user r = none := by cases b <;> rfl
  rw [home, hbank, Option.getD_none, userHome]
  split
  · exact .inr ⟨_, rfl⟩
  · exact .inl rfl

section
variable {s t : State}

theorem UserFrame.refl (s : State) : UserFrame s s := ⟨fun _ _ _ _ => rfl, rfl, rfl⟩

theorem UserFrame.set (h : UserFrame s t) {r : Register}
    (hr : r = .pc ∨ r = .cpsr ∨ ∃ n, r = .gpr n) (v : Word) : UserFrame s (t.set r v) := by
  obtain ⟨hget, hio, htimer⟩ := h
  refine ⟨fun r' hpc hcpsr hgpr => ?_, by simp [hio], by simp [htimer]⟩
  have hne : r' ≠ r := by
    rintro rfl
    rcases hr with hr | hr | ⟨n, hr⟩
    exacts [hpc hr, hcpsr hr, hgpr n hr]
  rw [State.get_set_of_ne t v hne, hget r' hpc hcpsr hgpr]

theorem UserFrame.writeReg (h : UserFrame s t) (r : RegNum) (v : Word) :
    UserFrame s (t.writeReg .user r v) := by
  rcases home_user_cases t.params.banking r with hr | hr
  · exact h.set (.inl hr) v
  · exact h.set (.inr (.inr hr)) v

theorem UserFrame.advance (h : UserFrame s t) : UserFrame s t.advance := h.set (.inl rfl) _

theorem UserFrame.applyUpdate (h : UserFrame s t) (u : Option (RegNum × Word)) :
    UserFrame s (t.applyUpdate .user u) := by
  cases u with
  | none => exact h
  | some u => exact h.writeReg u.1 u.2

theorem State.get_mem (s : State) (mem : Memory) (r : Register) :
    State.get { s with mem := mem } r = s.get r := by
  cases r <;> rfl

theorem State.get_draws (s : State) (n : Nat) (r : Register) :
    State.get { s with draws := n } r = s.get r := by
  cases r <;> rfl

theorem UserFrame.mem (h : UserFrame s t) (mem : Memory) : UserFrame s { t with mem := mem } := by
  obtain ⟨hget, hio, htimer⟩ := h
  exact ⟨fun r h1 h2 h3 => by rw [State.get_mem, hget r h1 h2 h3], hio, htimer⟩

theorem UserFrame.draws (h : UserFrame s t) (n : Nat) : UserFrame s { t with draws := n } := by
  obtain ⟨hget, hio, htimer⟩ := h
  exact ⟨fun r h1 h2 h3 => by rw [State.get_draws, hget r h1 h2 h3], hio, htimer⟩

/-- An instruction that user mode completes under `PRIV_CHECK` is none of the five privileged ones. -/
theorem Effect.unprivileged {sh : Shape} (h : Effect s .user sh t) (hpriv : s.params.privCheck = true) :
    (∀ value pos, sh ≠ .kernel (.srg value pos)) ∧ (∀ krd rm, sh ≠ .kernel (.mkd krd rm)) ∧
      (∀ imm, sh ≠ .kernel (.rfi imm)) := by
  have hno : ¬ (s.params.privCheck = false ∨ Mode.user ≠ .user) := by simp [hpriv]
  cases h with
  | srg _ _ hp | mkd _ _ hp => exact absurd hp hno
  | rfi _ _ hm => exact absurd rfl hm
  | _ => exact ⟨nofun, nofun, nofun⟩

theorem Effect.userFrame {sh : Shape} (h : Effect s .user sh t) (hpriv : s.params.privCheck = true)
    (hker : ∀ imm, sh ≠ .kernel (.ker imm)) : UserFrame s t := by
  have hno : ¬ (s.params.privCheck = false ∨ Mode.user ≠ .user) := by simp [hpriv]
  have frame := UserFrame.refl s
  cases h with
  | load op rd form v => exact ((frame.applyUpdate _).writeReg rd v).advance
  | store op rd form mem _ => exact ((frame.mem mem).applyUpdate _).advance
  | arith op rd rm o v n => exact ((frame.writeReg rd v).advance).draws n
  | move op rd o v => exact (frame.writeReg rd v).advance
  | compare op rd o psr _ _ => exact (frame.set (.inr (.inl rfl)) psr).advance
  | branch op d a => exact frame.set (.inl rfl) a
  | branchLink op d a => exact (frame.writeReg 14#4 _).set (.inl rfl) a
  | ker imm => exact absurd rfl (hker imm)
  | srg _ _ hp | ioi _ _ _ _ hp | mkd _ _ hp | mks _ _ hp => exact absurd hp hno
  | rfi _ _ hm => exact absurd rfl hm

end

theorem shape_eq_iff (i : Instr) (sh : Shape) : i.shape = sh ↔ i = sh.instr :=
  ⟨fun h => by rw [← h, instr_shape], fun h => by rw [h, shape_instr]⟩

/-- Settles O57: what user mode completes besides `ker` is no privileged instruction, so of the CPSR it
writes condition flags only, which stand apart from the mode flags, and of the registers the pc and the
user bank. -/
theorem userModeIsConfined : Obligations.UserModeIsConfined := by
  intro i s t hpos hmode hpriv hker hexec
  obtain ⟨m, hm, he⟩ := exec_effect hexec
  obtain rfl : m = .user := Option.some.inj (hm.symm.trans hmode)
  have hker' : ∀ imm, i.shape ≠ .kernel (.ker imm) := fun imm e =>
    hker imm ((shape_eq_iff _ _).mp e)
  obtain ⟨hsrg, hmkd, hrfi⟩ := he.unprivileged hpriv
  obtain ⟨hget, hio, htimer⟩ := he.userFrame hpriv hker'
  have hstatus : SameStatusBut s.cpsr t.cpsr
      [s.params.cpsrPos.n, s.params.cpsrPos.z, s.params.cpsrPos.c, s.params.cpsrPos.v] := by
    rcases he.cpsr hsrg (hmkd 0#4) hrfi with hsame | ⟨⟨imm, hk⟩, -⟩ | ⟨op, rd, o, -, -, hcmp⟩
    · rw [hsame]; exact fun _ _ => rfl
    · exact absurd hk (hker' imm)
    · exact hcmp.mono (comparedPositions_subset _ _)
  refine ⟨?_, hstatus, hget, hio, htimer, he.params⟩
  rw [State.mode, he.params,
    modeOf_eq_of_sameStatusBut hstatus (conditionFlags_disjoint hpos), ← State.mode, hmode]

/-! ### Who writes the condition flags -/

theorem SameStatusBut.flag_eq {s t : State} {positions : List (BitVec 5)}
    (h : SameStatusBut s.cpsr t.cpsr positions) {pos : BitVec 5} (hpos : pos ∉ positions) :
    t.flag pos = s.flag pos :=
  h pos hpos

/-- What keeps the flag at a position: a CPSR that is kept, or written only elsewhere. -/
theorem exec_keeps_flag {i : Instr} {s t : State} (hpos : cpsrPosWf s.params.cpsrPos = true)
    (hexec : exec i s = .next t) (hsrg : ∀ value pos, i ≠ .srg value pos)
    (hmkd : ∀ rm, i ≠ .mkd 0#4 rm) (hrfi : ∀ imm, i ≠ .rfi imm) {pos : BitVec 5}
    (hin : pos ∈ [s.params.cpsrPos.n, s.params.cpsrPos.z, s.params.cpsrPos.c, s.params.cpsrPos.v])
    (hcmp : ∀ op rd o, i.shape = .move op rd o → op.writesRd = false →
      pos ∉ comparedPositions s.params op) : t.flag pos = s.flag pos := by
  obtain ⟨m, -, he⟩ := exec_effect hexec
  rcases he.cpsr (fun value p e => hsrg value p ((shape_eq_iff _ _).mp e))
      (fun rm e => hmkd rm ((shape_eq_iff _ _).mp e)) (fun imm e => hrfi imm ((shape_eq_iff _ _).mp e))
    with hsame | ⟨-, hmode⟩ | ⟨op, rd, o, hsh, hop, hwritten⟩
  · simp only [State.flag, hsame]
  · exact hmode.flag_eq fun hin' => conditionFlags_disjoint hpos hin hin'
  · exact hwritten.flag_eq (hcmp op rd o hsh hop)

/-- Settles O58: only a comparison writes condition flags, it writes no other flags than N and Z unless it
is `cmp` under `CMP_WRITES_CV`, and C and V stand apart from N and Z. -/
theorem onlyComparesAndStatusWritesChangeFlags :
    Obligations.OnlyComparesAndStatusWritesChangeFlags := by
  intro i s t hpos hexec hsrg hmkd hrfi
  have keeps := @exec_keeps_flag i s t hpos hexec hsrg hmkd hrfi
  refine ⟨fun hcv => ?_, fun hmove => ?_⟩
  · have hnz : ∀ op rd o, i.shape = .move op rd o →
        comparedPositions s.params op = [s.params.cpsrPos.n, s.params.cpsrPos.z] := by
      intro op rd o hsh
      refine if_neg fun ⟨hop, htrue⟩ => ?_
      rcases hcv with hfalse | hnot
      · simp [hfalse] at htrue
      · exact hnot rd o (hop ▸ hsh)
    refine ⟨keeps (by simp) fun op rd o hsh _ hin => ?_, keeps (by simp) fun op rd o hsh _ hin => ?_⟩
    all_goals
      rw [hnz op rd o hsh] at hin
      exact nz_disjoint_cv hpos hin (by simp)
  · have hno : ∀ op rd o, i.shape = .move op rd o → ¬ op.writesRd = false := by
      intro op rd o hsh
      simp [hmove op rd o hsh]
    exact ⟨keeps (by simp) fun op rd o hsh hop => absurd hop (hno op rd o hsh),
      keeps (by simp) fun op rd o hsh hop => absurd hop (hno op rd o hsh)⟩

end Sys2Proof.Machine
end

section
/-! Proofs. The boundary between two instructions, the fetch and the decoder, and the end of a run: the
statements about `step`, the reset and the launch (60_exceptions.md R249 to R254, 70_reset_and_hazards.md
R270 to R275). -/

namespace Sys2Proof.Machine

/-! ### The timer's move and its interrupt, field by field -/

section
variable (s : State)

@[simp] theorem State.timerMove_get (r : Register) : s.timerMove.get r = s.get r := by
  obtain ⟨b, n, h⟩ := s.timerMove_eq
  rw [h]
  cases r <;> rfl

@[simp] theorem State.timerMove_ioHistory : s.timerMove.ioHistory = s.ioHistory := by
  obtain ⟨b, n, h⟩ := s.timerMove_eq
  rw [h]

@[simp] theorem State.timerMove_pc : s.timerMove.pc = s.pc := s.timerMove_get .pc

@[simp] theorem State.timerMove_cpsr : s.timerMove.cpsr = s.cpsr := s.timerMove_get .cpsr

theorem State.takeTimer_get (r : Register) : s.takeTimer.get r = (s.enter .timer s.pc).get r := by
  cases r <;> rfl

/-- What the timer interrupt's entry leaves alone. -/
theorem State.get_takeTimer_of_ne {r : Register} (hpc : r ≠ .pc) (hcpsr : r ≠ .cpsr)
    (hipsr : r ≠ .ipsr) (hlink : r ≠ .r14i) : s.takeTimer.get r = s.get r := by
  rw [State.takeTimer_get, State.get_enter_of_ne s .timer s.pc hpc hcpsr hipsr hlink]

@[simp] theorem State.takeTimer_cpsr :
    s.takeTimer.cpsr = withMode s.params.cpsrPos s.cpsr .interrupt :=
  State.enter_cpsr s .timer s.pc

end

theorem State.timerMove_timerPending {s : State} (h : s.params.timerPresent = true) :
    s.timerMove.timerPending = (s.timerPending || Config.timerRaise s.draws) := by
  simp [State.timerMove, h]

theorem State.takesTimer_of_absent {s : State} (h : s.params.timerPresent = false) :
    s.takesTimer = false := by
  simp [State.takesTimer, h]

theorem State.word?_congr {s t : State} (hmem : t.mem = s.mem) (hparams : t.params = s.params)
    (a : Nat) : t.word? a = s.word? a := by
  simp only [State.word?, State.byte?_congr hmem hparams, hparams]

theorem State.timerMove_fetch (s : State) : s.timerMove.fetch = s.fetch := by
  simp only [State.fetch, State.timerMove_pc, State.word?_congr s.timerMove_mem s.timerMove_params]

/-- Settles O10: the interrupt asks for a timer and for mode U or K, and the move writes the pending bit
and the draw counter. -/
theorem timerMovesOnlyItsPendingBit : Obligations.TimerMovesOnlyItsPendingBit := by
  intro s
  refine ⟨?never, s.timerMove_get, State.byte?_congr s.timerMove_mem s.timerMove_params,
    s.timerMove_params, s.timerMove_ioHistory, ?keepsPending, State.timerMove_of_absent⟩
  case never =>
    rintro (hmode | habsent)
    · simp [State.takesTimer, hmode]
    · exact State.takesTimer_of_absent habsent
  case keepsPending =>
    intro hpending
    cases hpresent : s.params.timerPresent with
    | true => rw [State.timerMove_timerPending hpresent, hpending, Bool.true_or]
    | false => rw [State.timerMove_of_absent hpresent, hpending]

/-! ### The mode after the mode flags are written -/

theorem modeFlags_nodup {p : CpsrPos} (hp : cpsrPosWf p = true) : [p.u, p.k, p.i].Nodup :=
  (cpsrPos_nodup hp).sublist (l₁ := [p.u, p.k, p.i])
    ((List.sublist_append_left [p.u, p.k, p.i] [p.os]).trans
      (List.sublist_append_right [p.n, p.z, p.c, p.v] _))

/-- The mode written is the mode read, since the three positions are distinct. -/
theorem modeOf_withMode {p : CpsrPos} (hp : cpsrPosWf p = true) (psr : Word) (m : Mode) :
    modeOf p (withMode p psr m) = some m := by
  obtain ⟨⟨huk, hui⟩, hki⟩ : (p.u ≠ p.k ∧ p.u ≠ p.i) ∧ p.k ≠ p.i := by
    simpa using modeFlags_nodup hp
  rw [modeOf_eq_some_iff]
  simp [withMode, statusBit_setStatusBit, huk, hui, hki]

/-- Settles O9: the step is the interrupt's entry where the free value takes it, which saves the status and
the pc and writes no other register; else the pending bit stays set. -/
theorem timerInterruptEntry : Obligations.TimerInterruptEntry := by
  intro s hpresent hpending hmode hpos
  have hraised : (s.timerPending || Config.timerRaise s.draws) = true := by simpa using hpending
  have hmode' : (s.mode == some .user || s.mode == some .kernel) = true := by simpa using hmode
  have htakes : s.takesTimer = Config.timerTake s.draws := by
    simp only [State.takesTimer, hpresent, hraised, hmode', Bool.true_and]
  split
  · next htake =>
    have hmoved : s.timerMove.takeTimer.mode = some .interrupt := by
      rw [State.mode, State.takeTimer_params, State.takeTimer_cpsr, State.timerMove_params,
        State.timerMove_cpsr, modeOf_withMode hpos]
    refine ⟨s.timerMove.takeTimer, ?_, s.timerMove_cpsr, hmoved, ?_, s.timerMove_pc, ?_, rfl,
      fun r h1 h2 h3 h4 => ?_, State.byte?_congr (by simp) (by simp), s.timerMove_ioHistory,
      by simp⟩
    · simp [step, htakes, htake]
    · rw [State.takeTimer_cpsr, State.timerMove_params, State.timerMove_cpsr]
      exact sameStatusBut_withMode _ _ _
    · exact congrArg Params.tmrVector s.timerMove_params
    · rw [State.get_takeTimer_of_ne _ h1 h2 h3 h4, State.timerMove_get]
  · next htake =>
    exact ⟨by simpa [htakes] using htake, by rw [State.timerMove_timerPending hpresent, hraised]⟩

/-! ### The fetch and the decoder -/

section
variable {s : State} (htimer : s.takesTimer = false) (hend : s.atEnd = false)
include htimer hend

theorem step_of_fetch_error {f : Fault} (h : s.fetch = .error f) : step s = .fault f := by
  simp [step, htimer, hend, State.timerMove_fetch, h]

theorem step_of_decode_error {w : Word} {e : DecodeError} (h : s.fetch = .ok w)
    (hd : decodeWord s.params.layout w = .error e) : step s = .fault (.illegalInstruction w s.pc) := by
  simp [step, htimer, hend, State.timerMove_fetch, h, hd]

theorem step_of_decode_ok {w : Word} {i : Instr} (h : s.fetch = .ok w)
    (hd : decodeWord s.params.layout w = .ok i) : step s = exec i s.timerMove := by
  simp [step, htimer, hend, State.timerMove_fetch, h, hd]

end

theorem State.fetch_of_misaligned {s : State} (h : s.pc.toNat % 4 ≠ 0) :
    s.fetch = .error (.fetchMisaligned s.pc) := by
  simp [State.fetch, h]

theorem State.fetch_of_word?_none {s : State} (halign : s.pc.toNat % 4 = 0)
    (h : s.word? s.pc.toNat = none) : s.fetch = .error (.fetchAccessFault s.pc) := by
  simp [State.fetch, halign, h]

/-- Settles O5: the word at the pc is what the fetch answers after the timer's move as before it. -/
theorem stepRunsTheDecodedInstruction : Obligations.StepRunsTheDecodedInstruction := by
  intro s w i htimer hend halign hword hdecode
  have hstep : step s = exec i s.timerMove :=
    step_of_decode_ok htimer hend (State.fetch_ok_iff.mpr ⟨halign, hword⟩) hdecode
  exact ⟨hstep, fun habsent => by rw [hstep, State.timerMove_of_absent habsent]⟩

/-- Settles O6: the bytes at the pc make the encoded word, which decodes to the instruction (O2), so the
step runs it (O5). -/
theorem stepRunsTheEncodedInstruction : Obligations.StepRunsTheEncodedInstruction := by
  intro s i b hlayout habsent hend halign hbytes hmem
  have hword : s.word? s.pc.toNat = some (encodeWith s.params.layout i) := by
    have h0 : s.byte? s.pc.toNat = some (b 0) := hmem 0 (by decide)
    simp only [State.word?, h0, hmem 1 (by decide), hmem 2 (by decide), hmem 3 (by decide),
      wordOfBytes_bytesOfWord _ _ _ _ _ _ hbytes]
  exact (stepRunsTheDecodedInstruction s _ i (State.takesTimer_of_absent habsent) hend halign hword
    (decodeOfEncodeIsTheInstruction _ i hlayout)).2 habsent

/-- Settles O7: the fetch and then the decoder answer the errors that the step reports as faults. -/
theorem fetchAndDecodeFaults : Obligations.FetchAndDecodeFaults := by
  intro s htimer hend
  exact ⟨fun hmis => step_of_fetch_error htimer hend (State.fetch_of_misaligned hmis),
    fun halign hnone => step_of_fetch_error htimer hend (State.fetch_of_word?_none halign hnone),
    fun w halign hword herr =>
      step_of_decode_error htimer hend (State.fetch_ok_iff.mpr ⟨halign, hword⟩) herr⟩

/-! ### The mode -/

theorem modeOf_eq_none_iff (p : CpsrPos) (psr : Word) :
    modeOf p psr = none ↔ ∀ m, modeOf p psr ≠ some m :=
  Option.eq_none_iff_forall_ne_some

/-- With no mode each cell of the grids is refused. -/
theorem execShape_of_no_mode (sh : Shape) {s : State} (h : s.mode = none) :
    execShape sh s = .refused (.badMode s.pc) := by
  have hno := State.inMode_of_none h
  cases sh with
  | loadStore op rd form => cases op <;> exact hno _
  | arith op rd rm o =>
    cases op with
    | adf | suf | muf | dif => cases o <;> exact hno _
    | _ => exact hno _
  | move op rd o =>
    cases op with
    | fti | cmf => cases o <;> exact hno _
    | _ => exact hno _
  | branch op d => cases op <;> exact hno _
  | kernel k => cases k <;> exact hno _

/-- Settles O8: a mode is read off the three flags, and every meaning begins in `State.inMode`. -/
theorem noModeRefusesEveryInstruction : Obligations.NoModeRefusesEveryInstruction := by
  refine ⟨fun s => ⟨?_, ?_, ?_, ?_⟩, fun i s h => ?_⟩
  · exact modeOf_eq_some_iff _ _ .user
  · exact modeOf_eq_some_iff _ _ .kernel
  · exact modeOf_eq_some_iff _ _ .interrupt
  · have huser := modeOf_eq_some_iff s.params.cpsrPos s.cpsr .user
    have hkernel := modeOf_eq_some_iff s.params.cpsrPos s.cpsr .kernel
    have hinterrupt := modeOf_eq_some_iff s.params.cpsrPos s.cpsr .interrupt
    refine (modeOf_eq_none_iff _ _).trans ⟨fun h => ⟨?_, ?_, ?_⟩, ?_⟩
    · exact fun hu => h .user (huser.mpr hu)
    · exact fun hk => h .kernel (hkernel.mpr hk)
    · exact fun hi => h .interrupt (hinterrupt.mpr hi)
    · rintro ⟨hu, hk, hi⟩ m
      cases m with
      | user => exact fun h => hu (huser.mp h)
      | kernel => exact fun h => hk (hkernel.mp h)
      | interrupt => exact fun h => hi (hinterrupt.mp h)
  · rw [exec_eq_execShape, execShape_of_no_mode _ h]

/-! ### The end of a run -/

theorem State.atEnd_iff (s : State) :
    s.atEnd = true ↔ s.params.endPc = some s.pc ∧
      (s.params.timerPresent = false ∨ s.mode = some s.params.launchMode) := by
  unfold State.atEnd
  cases s.params.endPc with
  | none => simp
  | some e => simp [eq_comm (a := e) (b := s.pc)]

theorem step_of_final {s : State} (h : Final s) : step s = .next s := by
  obtain ⟨hend, htimer⟩ := h
  simp [step, hend, htimer]

/-- Settles O11: a step of a final state is that state, so by induction every run is. -/
theorem finalStateStays : Obligations.FinalStateStays := by
  refine ⟨fun s => ⟨s.atEnd_iff, Iff.rfl⟩, fun s k h => ?_⟩
  induction k with
  | zero => rfl
  | succ k ih => simp only [run, step_of_final h, ih]

/-! ### Reset and launch -/

theorem sameStatusBut_setStatusBit (psr : Word) (pos : BitVec 5) (b : Bool) :
    SameStatusBut psr (setStatusBit psr pos b) [pos] :=
  fun _ hpos => statusBit_setStatusBit_of_ne psr b (by simpa using hpos)

section
variable {p : CpsrPos} (hp : cpsrPosWf p = true)
include hp

theorem os_disjoint : [p.os].Disjoint [p.n, p.z, p.c, p.v, p.u, p.k, p.i] :=
  (List.disjoint_of_nodup_append (l₁ := [p.n, p.z, p.c, p.v, p.u, p.k, p.i])
    (cpsrPos_nodup hp)).symm

theorem modeOf_launchStatus (m : Mode) (os : Bool) : modeOf p (launchStatus p m os) = some m := by
  rw [launchStatus, modeOf_eq_of_sameStatusBut (sameStatusBut_setStatusBit _ _ _)
    (List.disjoint_of_subset_right (List.subset_append_right [p.n, p.z, p.c, p.v] _)
      (os_disjoint hp)),
    modeOf_withMode hp]

/-- A launch sets none of N, Z, C and V. -/
theorem statusBit_launchStatus (m : Mode) (os : Bool) {pos : BitVec 5}
    (hpos : pos ∈ [p.n, p.z, p.c, p.v]) : statusBit (launchStatus p m os) pos = false := by
  have hos : pos ∉ [p.os] := fun hin => os_disjoint hp hin
    (List.subset_append_left [p.n, p.z, p.c, p.v] _ hpos)
  rw [launchStatus, sameStatusBut_setStatusBit _ _ _ pos hos,
    sameStatusBut_withMode p 0 m pos (conditionFlags_disjoint hp hpos)]
  exact BitVec.getLsbD_zero

end

/-- Settles O56: the launch's memory is a `memoryOf`, and its status is the mode flags and the OS flag,
which stand apart from each other and from the condition flags. -/
theorem launchMeetsTheInvariant : Obligations.LaunchMeetsTheInvariant := by
  intro l h
  obtain ⟨-, hpos⟩ := Bool.and_eq_true_iff.mp h
  exact ⟨(State.wf_iff _).mpr ⟨h, memoryInMap_memoryOf _ _⟩, modeOf_launchStatus hpos _ _, rfl, rfl,
    rfl, statusBit_setStatusBit_self _ _ _, fun _ hin => statusBit_launchStatus hpos _ _ hin⟩

/-- Settles O55: O56 holds of the default launch, and its status word evaluates. -/
theorem resetIsTheDefaultLaunch : Obligations.ResetIsTheDefaultLaunch := by
  have hreset : State.reset = launch defaultLaunch := rfl
  obtain ⟨hwf, hmode, -⟩ := launchMeetsTheInvariant defaultLaunch (by decide)
  exact ⟨hreset ▸ hwf, hreset, by decide, hreset ▸ hmode, rfl, rfl⟩

end Sys2Proof.Machine
end

section
/-! Proofs. Loads and stores: what a completed access answers, for any way to read or write, what it leaves
unchanged, the faults and the addresses (40_load_store.md, 20_memory.md). -/

namespace Sys2Proof.Machine

/-! ### Frames compose -/

theorem OnlyChanges.mono {s t : State} {regs regs' : Register → Prop} {bytes bytes' : Nat → Prop}
    (h : OnlyChanges s t regs bytes) (hregs : ∀ r, regs r → regs' r)
    (hbytes : ∀ a, bytes a → bytes' a) : OnlyChanges s t regs' bytes' := by
  obtain ⟨hget, hbyte, hhidden⟩ := h
  exact ⟨fun r hr => hget r fun h => hr (hregs r h), fun a ha => hbyte a fun h => ha (hbytes a h),
    hhidden⟩

theorem OnlyChanges.trans {s t u : State} {regs : Register → Prop} {bytes : Nat → Prop}
    (h : OnlyChanges s t regs bytes) (h' : OnlyChanges t u regs bytes) :
    OnlyChanges s u regs bytes := by
  obtain ⟨hget, hbyte, htimer, hio, hdraws, hparams⟩ := h
  obtain ⟨hget', hbyte', htimer', hio', hdraws', hparams'⟩ := h'
  exact ⟨fun r hr => (hget' r hr).trans (hget r hr), fun a ha => (hbyte' a ha).trans (hbyte a ha),
    htimer'.trans htimer, hio'.trans hio, hdraws'.trans hdraws, hparams'.trans hparams⟩

theorem onlyChanges_set (s : State) (r : Register) (v : Word) :
    OnlyChanges s (s.set r v) (fun r' => r' = r) noByte :=
  ⟨fun _ hr => State.get_set_of_ne s v hr, fun a _ => State.byte?_congr (by simp) (by simp) a,
    by simp, by simp, by simp, by simp⟩

/-- A write of the memory alone changes the bytes that read differently. -/
theorem onlyChanges_mem (s : State) (mem : Memory) {bytes : Nat → Prop}
    (h : ∀ a, ¬ bytes a → mem.read a = s.mem.read a) :
    OnlyChanges s { s with mem := mem } (fun _ => False) bytes :=
  ⟨fun r _ => State.get_mem s mem r, fun a ha => by simp only [State.byte?, h a ha],
    rfl, rfl, rfl, rfl⟩

/-! ### The base update -/

theorem State.baseUpdate_fst (s : State) (m : Mode) (form : AddrForm) :
    (s.baseUpdate m form).map Prod.fst = form.writebackBase := by
  cases form <;> rfl

/-- A form without writeback updates no base, one with writeback its base. -/
theorem State.baseUpdate_cases (s : State) (m : Mode) (form : AddrForm) :
    (s.baseUpdate m form = none ∧ form.writebackBase = none) ∨
      ∃ b u, s.baseUpdate m form = some (b, u) ∧ form.writebackBase = some b := by
  have h := s.baseUpdate_fst m form
  cases hu : s.baseUpdate m form with
  | none => exact .inl ⟨rfl, by simpa [hu] using h.symm⟩
  | some bu => exact .inr ⟨bu.1, bu.2, rfl, by simpa [hu] using h.symm⟩

section
variable {s s' : State} {m : Mode} {form : AddrForm} (h15 : form.writebackBase ≠ some 15#4)
include h15

theorem State.applyUpdate_pc : (s'.applyUpdate m (s.baseUpdate m form)).pc = s'.pc := by
  rcases s.baseUpdate_cases m form with ⟨hu, -⟩ | ⟨b, u, hu, hb⟩
  · rw [hu]; rfl
  · have hb15 : b ≠ 15#4 := by rintro rfl; exact h15 hb
    rw [hu]; exact State.writeReg_pc s' m u hb15

theorem State.readReg_applyUpdate {b : RegNum} {u : Word}
    (hu : s.baseUpdate m form = some (b, u)) :
    b ≠ 15#4 ∧ (s'.applyUpdate m (s.baseUpdate m form)).readReg m b = u := by
  have hb : form.writebackBase = some b := by rw [← s.baseUpdate_fst m form, hu]; rfl
  have hb15 : b ≠ 15#4 := by rintro rfl; exact h15 hb
  rw [hu]
  exact ⟨hb15, State.readReg_writeReg_self s' m u hb15⟩

end

theorem onlyChanges_applyUpdate {s s' : State} (hparams : s'.params = s.params) (m : Mode)
    (form : AddrForm) :
    OnlyChanges s' (s'.applyUpdate m (s.baseUpdate m form)) (pcAndBase s m form) noByte := by
  rcases s.baseUpdate_cases m form with ⟨hu, -⟩ | ⟨b, u, hu, hb⟩
  · rw [hu]
    exact ⟨fun _ _ => rfl, fun _ _ => rfl, rfl, rfl, rfl, rfl⟩
  · rw [hu]
    refine (onlyChanges_set s' _ u).mono ?_ fun _ => id
    rintro r rfl
    exact .inr ⟨b, hb, by rw [hparams]⟩

theorem onlyChanges_advance (s : State) :
    OnlyChanges s s.advance (fun r => r = .pc) noByte :=
  onlyChanges_set s .pc _

/-! ### A load that completes -/

theorem exec_ldrOf (rd : RegNum) (form : AddrForm) (s : State) :
    exec (ldrOf rd form) s = s.load s.loadWord rd form :=
  exec_instr (.loadStore .ldr rd form) s

theorem exec_ldbOf (rd : RegNum) (form : AddrForm) (s : State) :
    exec (ldbOf rd form) s = s.load s.loadByteExtended rd form :=
  exec_instr (.loadStore .ldb rd form) s

theorem exec_strOf (rd : RegNum) (form : AddrForm) (s : State) :
    exec (strOf rd form) s = s.store s.storeWord rd form :=
  exec_instr (.loadStore .str rd form) s

theorem exec_stbOf (rd : RegNum) (form : AddrForm) (s : State) :
    exec (stbOf rd form) s = s.store s.storeByte rd form :=
  exec_instr (.loadStore .stb rd form) s

section
variable {s : State} {m : Mode} {rd : RegNum} {form : AddrForm}

/-- What any load answers in an admitted form: the value read or the fault. -/
theorem State.load_of_mode {read : Word → Except Fault Word} (hm : s.mode = some m)
    (hrd : rd ≠ 15#4) (h15 : form.writebackBase ≠ some 15#4) (hne : form.writebackBase ≠ some rd) :
    (∀ v, read (s.effectiveAddress m form) = .ok v →
      s.load read rd form =
        .next ((s.applyUpdate m (s.baseUpdate m form)).writeReg m rd v).advance) ∧
    (∀ f, read (s.effectiveAddress m form) = .error f → s.load read rd form = .fault f) := by
  rw [State.load, State.inMode_of_mode hm, State.guardLoad_of_admitted hrd h15 hne]
  exact ⟨fun v h => by rw [h], fun f h => by rw [h]⟩

/-- What any store answers in an admitted form. -/
theorem State.store_of_mode {write : Word → Word → Except Fault State} (hm : s.mode = some m)
    (h15 : form.writebackBase ≠ some 15#4) (hne : form.writebackBase ≠ some rd) :
    (∀ s', write (s.effectiveAddress m form) (s.readReg m rd) = .ok s' →
      s.store write rd form = .next (s'.applyUpdate m (s.baseUpdate m form)).advance) ∧
    (∀ f, write (s.effectiveAddress m form) (s.readReg m rd) = .error f →
      s.store write rd form = .fault f) := by
  rw [State.store, State.inMode_of_mode hm, State.guardStore_of_admitted h15 hne]
  exact ⟨fun s' h => by rw [h], fun f h => by rw [h]⟩

/-- A completed load of `v`: rd, the base, the pc and the frame. -/
theorem load_completes {read : Word → Except Fault Word} {v : Word} (hm : s.mode = some m)
    (hrd : rd ≠ 15#4) (h15 : form.writebackBase ≠ some 15#4) (hne : form.writebackBase ≠ some rd)
    (hread : read (s.effectiveAddress m form) = .ok v) :
    ∃ t, s.load read rd form = .next t ∧ t.readReg m rd = v ∧
      (∀ b u, s.baseUpdate m form = some (b, u) → t.readReg m b = u) ∧ t.pc = s.pc + 4#32 ∧
      OnlyChanges s t (fun r => pcAnd s m rd r ∨ pcAndBase s m form r) noByte := by
  refine ⟨_, (State.load_of_mode hm hrd h15 hne).1 v hread, ?_, fun b u hu => ?_, ?_, ?_⟩
  · rw [State.readReg_advance _ m hrd, State.readReg_writeReg_self _ m v hrd]
  · obtain ⟨hb15, hbase⟩ := State.readReg_applyUpdate (s' := s) h15 hu
    have hbrd : b ≠ rd := by
      rintro rfl
      exact hne (by rw [← s.baseUpdate_fst m form, hu]; rfl)
    rw [State.readReg_advance _ m hb15, State.readReg_writeReg_of_ne _ m v hrd hbrd, hbase]
  · rw [State.advance_pc, State.writeReg_pc _ m v hrd, State.applyUpdate_pc h15]
  · refine OnlyChanges.trans
      ((onlyChanges_applyUpdate rfl m form).mono (fun _ => .inr) fun _ => id) ?_
    refine (onlyChanges_writeReg_advance _ m rd v).mono (fun r hr => .inl ?_) fun _ => id
    rwa [pcAnd, State.applyUpdate_params] at hr

/-- A completed store that leaves the memory `mem`: the memory, the base, the pc and the frame. -/
theorem store_completes {write : Word → Word → Except Fault State} {mem : Memory}
    {bytes : Nat → Prop} (hm : s.mode = some m) (h15 : form.writebackBase ≠ some 15#4)
    (hne : form.writebackBase ≠ some rd)
    (hwrite : write (s.effectiveAddress m form) (s.readReg m rd) = .ok { s with mem := mem })
    (hmem : ∀ a, ¬ bytes a → mem.read a = s.mem.read a) :
    ∃ t, s.store write rd form = .next t ∧ t.mem = mem ∧ t.params = s.params ∧
      (∀ b u, s.baseUpdate m form = some (b, u) → t.readReg m b = u) ∧ t.pc = s.pc + 4#32 ∧
      OnlyChanges s t (pcAndBase s m form) bytes := by
  refine ⟨_, (State.store_of_mode hm h15 hne).1 _ hwrite, by simp, by simp, fun b u hu => ?_, ?_, ?_⟩
  · obtain ⟨hb15, hbase⟩ := State.readReg_applyUpdate (s' := { s with mem := mem }) h15 hu
    rw [State.readReg_advance _ m hb15, hbase]
  · rw [State.advance_pc, State.applyUpdate_pc h15]
  · have hstore := (onlyChanges_mem s mem hmem).mono (regs' := pcAndBase s m form)
      (fun _ => False.elim) fun _ => id
    have hbase := (onlyChanges_applyUpdate (s := s) (s' := { s with mem := mem }) rfl m form).mono
      (bytes' := bytes) (fun _ => id) fun _ => False.elim
    exact (hstore.trans hbase).trans
      ((onlyChanges_advance _).mono (fun _ => .inl) fun _ => False.elim)

end

/-! ### Extension of a field -/

theorem toNat_extend_zero {n : Nat} (hn : n ≤ 32) (v : BitVec n) :
    (extend .zero v).toNat = v.toNat := by
  rw [extend, BitVec.toNat_setWidth_of_le hn]

theorem toInt_extend_sign {n : Nat} (hn : n ≤ 32) (v : BitVec n) :
    (extend .sign v).toInt = v.toInt :=
  BitVec.toInt_signExtend_of_le hn

theorem extend_zero_eq_ofNat {n : Nat} (v : BitVec n) : extend .zero v = BitVec.ofNat 32 v.toNat :=
  (BitVec.ofNat_toNat 32 v).symm

theorem extend_sign_eq_ofInt {n : Nat} (v : BitVec n) : extend .sign v = BitVec.ofInt 32 v.toInt :=
  rfl

/-! ### The four accesses -/

/-- Settles O12: `ldr` is the load that reads a word. -/
theorem loadWordResult : Obligations.LoadWordResult := by
  intro s m rd form v hm hrd h15 hne halign hword
  have hread : s.loadWord (s.effectiveAddress m form) = .ok v :=
    State.loadWord_ok_iff.mpr ⟨halign, hword⟩
  rw [exec_ldrOf]
  exact load_completes hm hrd h15 hne hread

theorem State.loadByteExtended_of_byte {s : State} {a : Word} {b : Byte}
    (h : s.byte? a.toNat = some b) : s.loadByteExtended a = .ok (extend s.params.ldbExt b) := by
  rw [State.loadByteExtended, State.loadByte_ok_iff.mpr h]

/-- Settles O13: `ldb` is the load that reads a byte and extends it. -/
theorem loadByteResult : Obligations.LoadByteResult := by
  intro s m rd form b hm hrd h15 hne hbyte
  obtain ⟨t, hexec, hval, hbase, hpc, hframe⟩ :=
    load_completes hm hrd h15 hne (State.loadByteExtended_of_byte hbyte)
  rw [exec_ldbOf]
  refine ⟨t, hexec, fun hext => ?_, fun hext => ?_, hbase, hpc, hframe⟩
  · rw [hval, hext, toNat_extend_zero (by decide)]
  · rw [hval, hext, toInt_extend_sign (by decide)]

theorem State.storeWord_of_admitted {s : State} {a : Word} (halign : a.toNat % 4 = 0)
    (hmap : wordInMap s.params.memMap a.toNat = true) (v : Word) :
    s.storeWord a v =
      .ok { s with mem := s.mem.writeList a.toNat (bytesOfWord s.params.byteOrder v) } := by
  simp [State.storeWord, halign, hmap]

theorem State.storeByte_of_admitted {s : State} {a : Word}
    (hmap : inMap s.params.memMap a.toNat = true) (v : Word) :
    s.storeByte a v = .ok { s with mem := s.mem.write a.toNat (v.extractLsb' 0 8) } := by
  simp [State.storeByte, hmap]

section
variable {s : State} {a : Nat} {order : ByteOrder} {v : Word}

/-- The bytes of a stored word, each at its address. -/
theorem State.byte?_of_writeList {mem : Memory} (hmem : s.mem = mem.writeList a (bytesOfWord order v))
    (hmap : wordInMap s.params.memMap a = true) {k : Nat} (hk : k < 4) :
    s.byte? (a + k) = some ((bytesOfWord order v)[k]'(by rw [bytesOfWord_length]; exact hk)) := by
  rw [State.byte?, if_pos ((wordInMap_iff _ _).mp hmap k hk), hmem,
    Memory.read_writeList_inside _ _ _ _ (by rw [bytesOfWord_length]; exact hk)]

/-- The word stored is the word read. -/
theorem State.word?_of_writeList {mem : Memory}
    (hmem : s.mem = mem.writeList a (bytesOfWord s.params.byteOrder v))
    (hmap : wordInMap s.params.memMap a = true) : s.word? a = some v := by
  have hbyte := fun k hk => State.byte?_of_writeList hmem hmap (k := k) hk
  have h0 : s.byte? a = _ := hbyte 0 (by decide)
  simp only [State.word?, h0, hbyte 1 (by decide), hbyte 2 (by decide), hbyte 3 (by decide)]
  congr 1
  refine wordOfBytes_bytesOfWord _ _ _ _ _ _ ?_
  cases s.params.byteOrder <;> rfl

end

theorem Memory.read_writeWord_of_outside (mem : Memory) (order : ByteOrder) (a v : Word) {x : Nat}
    (hx : ¬ wordAt a x) : (mem.writeList a.toNat (bytesOfWord order v)).read x = mem.read x := by
  apply Memory.read_writeList_of_outside
  rw [bytesOfWord_length]
  simp only [wordAt] at hx
  omega

/-- Settles O14: `str` is the store that writes a word, which is then the word read there. -/
theorem storeWordResult : Obligations.StoreWordResult := by
  intro s m rd form hm h15 hne halign hmap
  obtain ⟨t, hexec, hmem, hparams, hbase, hpc, hframe⟩ :=
    store_completes hm h15 hne (State.storeWord_of_admitted halign hmap (s.readReg m rd))
      fun x hx => Memory.read_writeWord_of_outside s.mem _ _ _ hx
  rw [exec_strOf]
  refine ⟨t, hexec, ?_, hbase, hpc, hframe⟩
  rw [← hparams] at hmem hmap
  exact State.word?_of_writeList hmem hmap

/-- Settles O15: `stb` is the store that writes the low byte. -/
theorem storeByteResult : Obligations.StoreByteResult := by
  intro s m rd form hm h15 hne hmap
  obtain ⟨t, hexec, hmem, hparams, hbase, hpc, hframe⟩ :=
    store_completes hm h15 hne (State.storeByte_of_admitted hmap (s.readReg m rd))
      fun x hx => Memory.read_write_of_ne s.mem _ hx
  rw [exec_stbOf]
  refine ⟨t, hexec, ?_, hbase, hpc, hframe⟩
  rw [State.byte?, hparams, if_pos hmap, hmem, Memory.read_write_self]

/-- Settles O20: what is read after the store is what the memory holds at the four addresses written. -/
theorem loadAndFetchAfterStore : Obligations.LoadAndFetchAfterStore := by
  intro s t a v h
  obtain ⟨halign, hmap, ht⟩ := State.storeWord_ok h
  have hparams : t.params = s.params := by rw [ht]
  have hmem : t.mem = s.mem.writeList a.toNat (bytesOfWord t.params.byteOrder v) := by rw [ht]
  rw [← hparams] at hmap
  have hword : t.word? a.toNat = some v := State.word?_of_writeList hmem hmap
  refine ⟨State.loadWord_ok_iff.mpr ⟨halign, hword⟩, ?_, fun k hk horder => ?_, fun k hk horder => ?_,
    fun x hx => ?_⟩
  · rintro rfl
    exact State.fetch_ok_iff.mpr ⟨halign, hword⟩
  · rw [State.byte?_of_writeList hmem hmap hk]
    simp only [hparams, horder]
    interval_cases k <;> rfl
  · rw [State.byte?_of_writeList hmem hmap hk]
    simp only [hparams, horder]
    interval_cases k <;> rfl
  · simp only [State.byte?, hparams, hmem, Memory.read_writeWord_of_outside _ _ _ _ hx]

/-! ### The faults of an access -/

/-- Settles O16: the alignment is tested before the memory is read or written. -/
theorem misalignedWordAccessFaults : Obligations.MisalignedWordAccessFaults := by
  intro s m rd form hm h15 hne hmis
  constructor
  · rw [exec_strOf]
    exact (State.store_of_mode hm h15 hne).2 _ (by simp [State.storeWord, hmis])
  · intro hrd
    rw [exec_ldrOf]
    exact (State.load_of_mode hm hrd h15 hne).2 _ (by simp [State.loadWord, hmis])

/-- Settles O17: each access answers the fault where its bytes are not in `MemMap`, or for a load hold no
value. -/
theorem accessOutsideMemoryFaults : Obligations.AccessOutsideMemoryFaults := by
  intro s m rd form hm h15 hne ea
  refine ⟨fun hmap => ?_, fun halign hmap => ?_, fun hrd hnone => ?_, fun hrd halign hnone => ?_⟩
  · rw [exec_stbOf]
    exact (State.store_of_mode hm h15 hne).2 _ (by simp [State.storeByte, ea, hmap])
  · rw [exec_strOf]
    exact (State.store_of_mode hm h15 hne).2 _ (by simp [State.storeWord, ea, halign, hmap])
  · rw [exec_ldbOf]
    exact (State.load_of_mode hm hrd h15 hne).2 _
      (by simp [State.loadByteExtended, State.loadByte, ea, hnone])
  · rw [exec_ldrOf]
    exact (State.load_of_mode hm hrd h15 hne).2 _ (by simp [State.loadWord, ea, halign, hnone])

/-! ### The addresses -/

theorem word_add_extend_sign {n : Nat} (x : Word) (imm : BitVec n) :
    x + extend .sign imm = BitVec.ofInt 32 (x.toNat + imm.toInt) := by
  rw [BitVec.ofInt_add, extend_sign_eq_ofInt]
  simp

/-- Settles O18: form by form, from the offset added modulo 2^32. -/
theorem addressFormsGiveTheirAddresses : Obligations.AddressFormsGiveTheirAddresses := by
  intro s m rm rn imm addr x off
  have hoff : x rm + extend .sign imm = BitVec.ofInt 32 ((x rm).toNat + off) :=
    word_add_extend_sign _ _
  have hidx : x rm + x rn = BitVec.ofNat 32 ((x rm).toNat + (x rn).toNat) :=
    word_add_eq_ofNat_toNat _ _
  exact ⟨toNat_extend_zero (by decide) addr, rfl, hoff, hidx, hoff, hidx, rfl, rfl, rfl, rfl, rfl, rfl,
    by rw [← hoff]; rfl, by rw [← hidx]; rfl, by rw [← hoff]; rfl, by rw [← hidx]; rfl⟩

theorem shiftDirection_of_nonneg {b : Word} (h : 0 ≤ b.toInt) : shiftDirection b = .left :=
  if_neg (by omega)

theorem shiftDirection_of_neg {b : Word} (h : b.toInt < 0) : shiftDirection b = .right :=
  if_pos h

theorem shiftLogical_of_nonneg (v : Word) {b : Word} (h : 0 ≤ b.toInt) :
    shiftLogical v b = v <<< shiftCount b := by
  rw [shiftLogical, shiftDirection_of_nonneg h]

theorem shiftLogical_of_neg (v : Word) {b : Word} (h : b.toInt < 0) :
    shiftLogical v b = v >>> shiftCount b := by
  rw [shiftLogical, shiftDirection_of_neg h]

/-- Settles O19: the sign-extended count has the value of its field, a left shift multiplies modulo 2^32
and a right shift divides. -/
theorem scaledIndexShiftsTheIndex : Obligations.ScaledIndexShiftsTheIndex := by
  intro s m rm rn imm base index count ea
  have hint : (extend .sign imm).toInt = imm.toInt := toInt_extend_sign (by decide) imm
  have hcount : shiftCount (extend .sign imm) = count := by rw [shiftCount, hint]
  have hea : ea = base + indexShift s.params index imm := rfl
  refine ⟨rfl, fun hstd hnonneg => ?_, fun hstd hneg => ?_, fun hgiven => ?_⟩
  · rw [hea, indexShift, hstd, word_add_eq_ofNat_toNat]
    simp only
    rw [shiftLogical_of_nonneg _ (hint ▸ hnonneg), hcount, BitVec.toNat_shiftLeft, Nat.shiftLeft_eq]
    apply BitVec.eq_of_toNat_eq
    simp
  · rw [hea, indexShift, hstd, word_add_eq_ofNat_toNat]
    simp only
    rw [shiftLogical_of_neg _ (hint ▸ hneg), hcount, BitVec.toNat_ushiftRight, Nat.shiftRight_eq_div_pow]
  · rw [hea, indexShift, hgiven]

end Sys2Proof.Machine
end

section
/-! Proofs. The values of the operands, and the statements about multiplication, carry, division and the
floating-point arithmetic (41_arith_logic.md). -/

namespace Sys2Proof.Machine

/-! ### Operands -/

theorem home_of_lt_thirteen (b : Banking) (m : Mode) :
    ∀ n : Fin 15, n.val < 13 → home b m (BitVec.ofNat 4 n.val) = .gpr n := by
  cases b <;> cases m <;> decide

theorem home_unbanked (b : Banking) (m : Mode) :
    ∀ n : Fin 15, home b .user (BitVec.ofNat 4 n.val) = .gpr n ∧
      home .none m (BitVec.ofNat 4 n.val) = .gpr n := by
  cases b <;> cases m <;> decide

/-- Settles O23: the register numbers mode by mode, and the extension of each immediate. -/
theorem operandValues : Obligations.OperandValues := by
  constructor
  · intro s b m
    exact ⟨home_of_lt_thirteen b m, home_unbanked b m, rfl, rfl, rfl, rfl,
      fun r hr => State.readReg_of_ne s m hr, rfl, fun n => rfl, rfl, rfl, rfl, rfl⟩
  · intro s m r imm16 imm20
    refine ⟨rfl, fun hext => ?_, fun hext => ?_, rfl, toInt_extend_sign (by decide) imm20, rfl,
      toNat_extend_zero (by decide) imm20, toNat_extend_zero (by decide) imm20, rfl,
      word_add_extend_sign _ _⟩
    · rw [State.arithOp2, hext, toInt_extend_sign (by decide)]
    · rw [State.arithOp2, hext, toNat_extend_zero (by decide)]

/-! ### Multiplication and carry -/

/-- Settles O22: the product of words is the product modulo 2^32 of either reading of the operands. -/
theorem multiplyResult : Obligations.MultiplyResult := by
  intro s m rd rm o hm hrd a b
  refine ⟨a * b, writesReg_arithOf hm hrd rfl, BitVec.toNat_mul a b, ?_⟩
  rw [BitVec.ofInt_mul, BitVec.ofInt_toInt, BitVec.ofInt_toInt]

theorem State.carry_eq_ofNat (s : State) :
    s.carry = BitVec.ofNat 32 (if s.flag s.params.cpsrPos.c then 1 else 0) := by
  unfold State.carry
  split <;> rfl

/-- Subtracting the borrow 1 - C is adding the complement and C (R149). -/
theorem sub_sub_one_sub (a b c : Word) : a - b - (1 - c) = a + ~~~b + c := by
  rw [BitVec.sub_eq_add_neg a b, BitVec.neg_eq_not_add]
  change a + (~~~b + 1) - (1 - c) = a + ~~~b + c
  ring

/-- Settles O25: C is added as a number, and subtracted as `SBC_BORROW` says. -/
theorem carryArithmeticResult : Obligations.CarryArithmeticResult := by
  intro s m rd rm o hm hrd a b c
  have hcarry : s.carry = BitVec.ofNat 32 c := s.carry_eq_ofNat
  have hsbc : WritesReg (arithOf .sbc rd rm o) s m rd (s.subCarry a b) :=
    writesReg_arithOf hm hrd rfl
  refine ⟨?_, fun harm => ?_, fun hplain => ?_⟩
  · have hadc : WritesReg (arithOf .adc rd rm o) s m rd (s.addCarry a b) :=
      writesReg_arithOf hm hrd rfl
    rwa [State.addCarry, hcarry, word_add_eq_ofNat_toNat a b, ← BitVec.ofNat_add] at hadc
  · rw [State.subCarry, harm] at hsbc
    rwa [← hcarry, ← sub_sub_one_sub]
  · rw [State.subCarry, hplain] at hsbc
    rw [word_ofInt_sub, ← word_sub_eq_ofInt_toInt, BitVec.ofInt_natCast, ← hcarry]
    exact hsbc

/-! ### Division -/

section
variable {s : State} {m : Mode} {op : ArithOp} {f : Word → Word → Word} {rd rm : RegNum}
  {o : ArithOperand}

/-- A mnemonic of the arithmetic grid that means a division writes its value where op2 is not 0. -/
theorem writesReg_of_divide (hm : s.mode = some m) (hrd : rd ≠ 15#4)
    (hop : arithMeaning op rd rm o s = s.divide f rd rm o) (h0 : s.arithOp2 m o ≠ 0#32) :
    WritesReg (arithOf op rd rm o) s m rd (f (s.readReg m rm) (s.arithOp2 m o)) := by
  apply writesReg_of_exec hrd
  rw [exec_arithOf, hop, State.divide, State.inMode_of_mode hm, State.writing_of_ne hrd, if_neg h0]

theorem State.divide_by_zero_of_fault (hm : s.mode = some m) (hrd : rd ≠ 15#4)
    (h0 : s.arithOp2 m o = 0#32) (hdiv : s.params.div0 = .fault) :
    s.divide f rd rm o = .fault (.divideByZero s.pc) := by
  rw [State.divide, State.inMode_of_mode hm, State.writing_of_ne hrd, if_pos h0, hdiv]

theorem State.divide_by_zero_of_draw (hm : s.mode = some m) (hrd : rd ≠ 15#4)
    (h0 : s.arithOp2 m o = 0#32) (hdiv : s.params.div0 = .draw) :
    s.divide f rd rm o =
      .next { (s.writeReg m rd (Config.divZeroDraw s.draws)).advance with draws := s.draws + 1 } := by
  rw [State.divide, State.inMode_of_mode hm, State.writing_of_ne hrd, if_pos h0, hdiv]

end

/-- The default `DivS` is the signed division of words. -/
theorem truncDiv_eq_sdiv (a b : Word) : truncDiv a b = a.sdiv b :=
  BitVec.eq_of_toInt_eq (by rw [truncDiv, BitVec.toInt_ofInt, BitVec.toInt_sdiv])

/-- Settles O26: the division of words is the truncated quotient of the signed values except for the one
pair whose quotient is 2^31. -/
theorem divideResult : Obligations.DivideResult := by
  intro s m rd rm o hm hrd h0 a b
  refine ⟨divS s.params a b, writesReg_of_divide hm hrd rfl h0, fun hstd hne => ?_,
    fun hstd ha hb => ?_, fun hgiven => ?_⟩
  · rw [divS, hstd]
    simp only
    rw [truncDiv_eq_sdiv]
    exact BitVec.toInt_sdiv_of_ne_or_ne a b (not_and_or.mp hne)
  · rw [divS, hstd, ha, hb]
    decide
  · rw [divS, hgiven]

/-- Subtracting the truncated quotient times the divisor leaves the signed remainder of words. -/
theorem sub_truncDiv_mul_eq_srem (a b : Word) : a - truncDiv a b * b = a.srem b :=
  calc a - truncDiv a b * b
      = BitVec.ofInt 32 a.toInt - BitVec.ofInt 32 (a.toInt.tdiv b.toInt) * BitVec.ofInt 32 b.toInt := by
        rw [truncDiv, BitVec.ofInt_toInt, BitVec.ofInt_toInt]
    _ = BitVec.ofInt 32 (a.toInt - a.toInt.tdiv b.toInt * b.toInt) := by
        rw [word_ofInt_sub, BitVec.ofInt_mul]
    _ = BitVec.ofInt 32 (a.srem b).toInt := by
        rw [BitVec.toInt_srem, Int.tmod_def, Int.mul_comm]
    _ = a.srem b := BitVec.ofInt_toInt

/-- Settles O27: `mod` writes the remainder paired with `DivS`, which by default is the signed remainder of
words. -/
theorem moduloResult : Obligations.ModuloResult := by
  intro s m rd rm o hm hrd h0 a b
  refine ⟨modS s.params a b, writesReg_of_divide hm hrd rfl h0, fun hstd => ?_, fun hgiven => ?_⟩
  · rw [modS, divS, hstd]
    simp only
    rw [sub_truncDiv_mul_eq_srem, BitVec.toInt_srem]
  · rw [modS, divS, hgiven]

/-- The draw counter set back does not matter to a frame. -/
theorem OnlyChanges.with_draws {s t : State} {regs : Register → Prop} {bytes : Nat → Prop}
    (h : OnlyChanges s t regs bytes) : OnlyChanges s { t with draws := s.draws } regs bytes := by
  obtain ⟨hget, hbyte, htimer, hio, -, hparams⟩ := h
  exact ⟨fun r hr => by rw [State.get_draws, hget r hr], hbyte, htimer, hio, rfl, hparams⟩

/-- Settles O28: `div` and `mod` are divisions, so a zero op2 faults or draws a free value; but for the
draw counter a draw is a register write. -/
theorem divideByZeroFaultsOrDraws : Obligations.DivideByZeroFaultsOrDraws := by
  intro s m op rd rm o hop hm hrd h0
  obtain ⟨f, hf⟩ : ∃ f, arithMeaning op rd rm o s = s.divide f rd rm o := by
    rcases hop with rfl | rfl
    · exact ⟨_, rfl⟩
    · exact ⟨_, rfl⟩
  rw [exec_arithOf, hf]
  refine ⟨State.divide_by_zero_of_fault hm hrd h0, fun hdraw =>
    ⟨_, State.divide_by_zero_of_draw hm hrd h0 hdraw, ?_, ?_, rfl, ?_⟩⟩
  · exact (State.readReg_advance _ m hrd).trans (State.readReg_writeReg_self s m _ hrd)
  · exact congrArg (· + 4#32) (State.writeReg_pc s m _ hrd)
  · exact (onlyChanges_writeReg_advance s m rd _).with_draws

/-! ### Floating point -/

/-- Settles O29: with a register op2 the four mean total functions of the grid. -/
theorem floatArithmeticResult : Obligations.FloatArithmeticResult := by
  intro s m rd rm rn hm hrd a b
  exact ⟨writesReg_arithOf (op := .adf) (o := .reg rn) hm hrd rfl,
    writesReg_arithOf (op := .suf) (o := .reg rn) hm hrd rfl,
    writesReg_arithOf (op := .muf) (o := .reg rn) hm hrd rfl,
    writesReg_arithOf (op := .dif) (o := .reg rn) hm hrd rfl⟩

theorem State.floatImmediate_of_mode {s : State} {m : Mode} (hm : s.mode = some m) (rd : RegNum) :
    s.floatImmediate rd =
      if rd = 15#4 then .refused (.writeToPc s.pc) else .refused (.floatImmediate s.pc) := by
  rw [State.floatImmediate, State.inMode_of_mode hm, State.writing]

/-- Settles O30: the six opcodes mean `State.floatImmediate`, which looks at rd first, or for `cmf`, which
has no destination, `State.floatCompareImmediate`. -/
theorem floatImmediateIsRefused : Obligations.FloatImmediateIsRefused := by
  intro i s m hfloat hm
  rw [exec_eq_execShape]
  cases hsh : i.shape with
  | loadStore _ _ _ | branch _ _ | kernel _ => rw [hsh] at hfloat; cases hfloat
  | arith op rd rm o =>
    rw [hsh] at hfloat
    have hpc : (Shape.arith op rd rm o).writesPc = true ↔ rd = 15#4 := by
      simp [Shape.writesPc, Shape.destReg, Shape.baseReg]
    have hmeaning : arithMeaning op rd rm o s = s.floatImmediate rd := by
      cases o with
      | reg rn => cases hfloat
      | imm imm =>
        cases op with
        | adf | suf | muf | dif => rfl
        | _ => cases hfloat
    rw [execShape, hmeaning, State.floatImmediate_of_mode hm]
    simp only [hpc]
  | move op rd o =>
    rw [hsh] at hfloat
    cases o with
    | reg rm => cases hfloat
    | imm imm =>
      cases op with
      | fti =>
        have hpc : (Shape.move .fti rd (.imm imm)).writesPc = true ↔ rd = 15#4 := by
          simp [Shape.writesPc, Shape.destReg, Shape.baseReg, MoveOp.writesRd]
        simp only [hpc]
        exact State.floatImmediate_of_mode hm rd
      | cmf => exact State.inMode_of_mode hm _
      | _ => cases hfloat

end Sys2Proof.Machine
end

section
/-! Proofs. Moves, shifts bit by bit, rotations, conversions and the comparisons `cmp` and `cmf`
(42_move_compare_shift.md). -/

namespace Sys2Proof.Machine

/-! ### The move grid -/

section
variable {s : State} {m : Mode} {op : MoveOp} {rd : RegNum} {o : MoveOperand}

/-- A mnemonic of the move grid that means a function of the old rd and op2 writes its value. -/
theorem writesReg_moveOf {f : Word → Word → Word} (hm : s.mode = some m) (hrd : rd ≠ 15#4)
    (hop : moveMeaning op rd o s = s.move f rd o) :
    WritesReg (moveOf op rd o) s m rd (f (s.readReg m rd) (s.moveOp2 m o)) := by
  apply writesReg_of_exec hrd
  rw [exec_moveOf, hop, State.move, State.inMode_of_mode hm, State.writing_of_ne hrd]

theorem writesReg_mva (hm : s.mode = some m) (hrd : rd ≠ 15#4) (o : MoveOperand) :
    WritesReg (moveOf .mva rd o) s m rd (s.mvaOp2 m o) := by
  apply writesReg_of_exec hrd
  rw [exec_moveOf, moveMeaning, State.moveAddress, State.inMode_of_mode hm, State.writing_of_ne hrd]

end

/-- Settles O31: `mov` and `one` take their immediate sign-extended, `mva` zero-extended. -/
theorem moveResult : Obligations.MoveResult := by
  refine ⟨fun s m rd rm imm hm hrd => ?_, fun rd rm imm => ?_, rfl, rfl, rfl, rfl, rfl⟩
  · have mov := fun o => writesReg_moveOf (op := .mov) (f := fun _ b => b) (o := o) hm hrd rfl
    have one := fun o => writesReg_moveOf (op := .one) (f := fun _ b => ~~~b) (o := o) hm hrd rfl
    have mva := writesReg_mva hm hrd (.imm imm)
    rw [State.mvaOp2, extend_zero_eq_ofNat] at mva
    refine ⟨~~~s.readReg m rm, ~~~BitVec.ofInt 32 imm.toInt, mov (.reg rm), mov (.imm imm),
      writesReg_mva hm hrd (.reg rm), mva, one (.reg rm), one (.imm imm), fun i hi => ?_⟩
    simp only [BitVec.getLsbD_not, hi, decide_true, Bool.true_and, and_self]
  · exact ⟨Laws.OpcodeByte.movReg rd rm, Laws.OpcodeByte.movImm rd imm,
      Laws.OpcodeByte.mvaReg rd rm, Laws.OpcodeByte.mvaImm rd imm,
      Laws.OpcodeByte.oneReg rd rm, Laws.OpcodeByte.oneImm rd imm⟩

/-- Settles O35: the conversions are functions of op2 in the move grid. -/
theorem floatConversionResult : Obligations.FloatConversionResult := by
  intro s m rd rm imm hm hrd
  exact ⟨writesReg_moveOf (op := .fti) (f := fun _ b => Config.fToI b) (o := .reg rm) hm hrd rfl,
    writesReg_moveOf (op := .itf) (f := fun _ b => Config.iToF b) (o := .reg rm) hm hrd rfl,
    writesReg_moveOf (op := .itf) (f := fun _ b => Config.iToF b) (o := .imm imm) hm hrd rfl⟩

/-! ### The shifts -/

theorem shiftCount_lt (b : Word) : shiftCount b < 32 := Nat.mod_lt _ (by decide)

theorem getLsbD_shiftLeft_word (x : Word) (n : Nat) {i : Nat} (hi : i < 32) :
    (x <<< n).getLsbD i = (decide (n ≤ i) && x.getLsbD (i - n)) := by
  rw [BitVec.getLsbD_shiftLeft, decide_eq_true hi, Bool.true_and, ← decide_not]
  simp only [Nat.not_lt]

theorem getLsbD_ushiftRight_word (x : Word) (n i : Nat) :
    (x >>> n).getLsbD i = (decide (i + n < 32) && x.getLsbD (i + n)) := by
  rw [BitVec.getLsbD_ushiftRight, Nat.add_comm n i]
  by_cases h : i + n < 32
  · simp [h]
  · simp [h, BitVec.getLsbD_of_ge x (i + n) (by omega)]

theorem shiftArithmetic_of_nonneg (v : Word) {b : Word} (h : 0 ≤ b.toInt) :
    shiftArithmetic v b =
      (v <<< shiftCount b) |||
        (if v.getLsbD 0 then BitVec.ofNat 32 (2 ^ shiftCount b - 1) else 0) := by
  rw [shiftArithmetic, shiftDirection_of_nonneg h]

theorem shiftArithmetic_of_neg (v : Word) {b : Word} (h : b.toInt < 0) :
    shiftArithmetic v b = v.sshiftRight (shiftCount b) := by
  rw [shiftArithmetic, shiftDirection_of_neg h]

/-- The word whose low `n` bits are 1. -/
theorem getLsbD_lowOnes (n : Nat) {i : Nat} (hi : i < 32) :
    (BitVec.ofNat 32 (2 ^ n - 1)).getLsbD i = decide (i < n) := by
  rw [BitVec.getLsbD_ofNat, Nat.testBit_two_pow_sub_one, decide_eq_true hi, Bool.true_and]

/-- The left shift of `sha` fills with the old bit 0 (R176). -/
theorem getLsbD_shiftArithmetic_of_nonneg (v : Word) {b : Word} (h : 0 ≤ b.toInt) {i : Nat}
    (hi : i < 32) : (shiftArithmetic v b).getLsbD i =
      if shiftCount b ≤ i then v.getLsbD (i - shiftCount b) else v.getLsbD 0 := by
  rw [shiftArithmetic_of_nonneg v h, BitVec.getLsbD_or, getLsbD_shiftLeft_word v _ hi]
  by_cases hn : shiftCount b ≤ i
  · have hlow : ¬ i < shiftCount b := by omega
    cases h0 : v.getLsbD 0 <;> simp [hn, hlow, getLsbD_lowOnes _ hi]
  · have hlow : i < shiftCount b := by omega
    cases h0 : v.getLsbD 0 <;> simp [hn, hlow, getLsbD_lowOnes _ hi]

/-- The right shift of `sha` fills with the old bit 31 (R176). -/
theorem getLsbD_shiftArithmetic_of_neg (v : Word) {b : Word} (h : b.toInt < 0) {i : Nat}
    (hi : i < 32) : (shiftArithmetic v b).getLsbD i =
      if i + shiftCount b < 32 then v.getLsbD (i + shiftCount b) else v.getLsbD 31 := by
  rw [shiftArithmetic_of_neg v h, BitVec.getLsbD_sshiftRight, Nat.add_comm _ i,
    BitVec.msb_eq_getLsbD_last, decide_eq_false (by omega : ¬ 32 ≤ i), Bool.not_false, Bool.true_and]

/-- Settles O32: the two directions of `shiftLogical`, bit by bit. -/
theorem shiftLogicalResult : Obligations.ShiftLogicalResult := by
  intro s m rd o hm hrd old count n
  refine ⟨shiftLogical old (s.moveOp2 m o), writesReg_moveOf hm hrd rfl,
    fun i hi => ⟨fun hpos => ?_, fun hneg => ?_⟩⟩
  · rw [shiftLogical_of_nonneg old hpos]
    exact getLsbD_shiftLeft_word old _ hi
  · rw [shiftLogical_of_neg old hneg]
    exact getLsbD_ushiftRight_word old _ i

/-- Settles O33: the two directions of `shiftArithmetic`, bit by bit. -/
theorem shiftArithmeticResult : Obligations.ShiftArithmeticResult := by
  intro s m rd o hm hrd old count n
  exact ⟨shiftArithmetic old (s.moveOp2 m o), writesReg_moveOf hm hrd rfl,
    fun i hi => ⟨fun hpos => getLsbD_shiftArithmetic_of_nonneg old hpos hi,
      fun hneg => getLsbD_shiftArithmetic_of_neg old hneg hi⟩⟩

/-! ### The rotation -/

theorem word_rotateLeft_zero (v : Word) : v.rotateLeft 0 = v := by
  rw [BitVec.rotateLeft_def, Nat.zero_mod, Nat.sub_zero, BitVec.ushiftRight_eq_zero (Nat.le_refl 32),
    BitVec.shiftLeft_zero, BitVec.or_zero]

theorem rotate_of_nonneg (v : Word) {b : Word} (h : 0 ≤ b.toInt) :
    rotate v b = v.rotateLeft (shiftCount b) := by
  rw [rotate, shiftDirection_of_nonneg h]
  split
  · next h0 => rw [h0, word_rotateLeft_zero]
  · rw [BitVec.rotateLeft_def, Nat.mod_eq_of_lt (shiftCount_lt b)]

/-- A right rotation by `n` is a left rotation by 32 - n. -/
theorem rotate_of_neg (v : Word) {b : Word} (h : b.toInt < 0) :
    rotate v b = v.rotateLeft (32 - shiftCount b) := by
  rw [rotate, shiftDirection_of_neg h]
  split
  · next h0 => rw [h0, ← BitVec.rotateLeft_mod_eq_rotateLeft, Nat.sub_zero, Nat.mod_self,
      word_rotateLeft_zero]
  · next h0 =>
    have hlt := shiftCount_lt b
    have hsub : 32 - (32 - shiftCount b) = shiftCount b := by omega
    rw [BitVec.rotateLeft_def, Nat.mod_eq_of_lt (by omega : 32 - shiftCount b < 32), hsub]
    exact BitVec.or_comm _ _

/-- A left rotation by `n` brings the bit at `i` to `i + n`, modulo 32. -/
theorem getLsbD_rotateLeft_word (x : Word) (n : Nat) {i : Nat} (hi : i < 32) :
    (x.rotateLeft n).getLsbD ((i + n) % 32) = x.getLsbD i := by
  rw [BitVec.getLsbD_rotateLeft]
  have hlt : (i + n) % 32 < 32 := Nat.mod_lt _ (by decide)
  by_cases hwrap : (i + n) % 32 < n % 32
  · have hbit : 32 - n % 32 + (i + n) % 32 = i := by omega
    rw [decide_eq_true hwrap, cond_true, hbit]
  · have hbit : (i + n) % 32 - n % 32 = i := by omega
    rw [decide_eq_false hwrap, cond_false, decide_eq_true hlt, Bool.true_and, hbit]

/-- Settles O34: `rotate` is a left rotation in either direction, which moves each bit by its count. -/
theorem rotateResult : Obligations.RotateResult := by
  intro s m rd o hm hrd old count n
  have hn : n < 32 := shiftCount_lt _
  have hleft : 0 ≤ count → rotate old (s.moveOp2 m o) = old.rotateLeft n := rotate_of_nonneg old
  have hright : count < 0 → rotate old (s.moveOp2 m o) = old.rotateLeft (32 - n) := rotate_of_neg old
  refine ⟨_, writesReg_moveOf hm hrd rfl, hleft, hright, fun i hi => ⟨fun hpos => ?_, fun hneg => ?_⟩⟩
  · rw [hleft hpos, getLsbD_rotateLeft_word old n hi]
  · have hback : ((i + n) % 32 + (32 - n)) % 32 = i := by omega
    have hbit := getLsbD_rotateLeft_word old (32 - n) (i := (i + n) % 32) (Nat.mod_lt _ (by decide))
    rw [hback] at hbit
    rw [hright hneg, hbit]

/-! ### The comparisons -/

/-- The signed difference of two words overflows where it is not the difference of their signed values. -/
theorem compareOverflow_iff (a b : Word) :
    compareOverflow a b = true ↔ (a - b).toInt ≠ a.toInt - b.toInt := by
  have ha := a.two_mul_toInt_lt
  have ha' := a.le_two_mul_toInt
  have hb := b.two_mul_toInt_lt
  have hb' := b.le_two_mul_toInt
  rw [BitVec.toInt_sub, Int.bmod_def, compareOverflow, Bool.or_eq_true, decide_eq_true_eq,
    decide_eq_true_eq]
  split <;> omega

theorem zeroFlag_sub (a b : Word) : zeroFlag (a - b) = decide (a = b) := by
  rw [zeroFlag_eq_decide, decide_eq_decide]
  exact sub_eq_zero

section
variable {p : Params} (hp : cpsrPosWf p.cpsrPos = true) (psr a b : Word)
include hp

theorem statusBit_compareStatus_nz :
    statusBit (compareStatus p psr a b) p.cpsrPos.n = negativeFlag (a - b) ∧
      statusBit (compareStatus p psr a b) p.cpsrPos.z = zeroFlag (a - b) := by
  have hapart := fun {pos} (hin : pos ∈ [p.cpsrPos.n, p.cpsrPos.z]) {pos'}
    (hin' : pos' ∈ [p.cpsrPos.c, p.cpsrPos.v, p.cpsrPos.u, p.cpsrPos.k, p.cpsrPos.i, p.cpsrPos.os]) =>
    fun (e : pos = pos') => nz_disjoint_cv hp hin (e ▸ hin')
  unfold compareStatus
  cases p.cmpWritesCV with
  | false => exact ⟨statusBit_withNZ_n hp _ _ _, statusBit_withNZ_z _ _ _ _⟩
  | true =>
    simp only [if_true]
    rw [statusBit_withCV_of_ne _ _ _ _ (hapart (by simp) (by simp)) (hapart (by simp) (by simp)),
      statusBit_withCV_of_ne _ _ _ _ (hapart (by simp) (by simp)) (hapart (by simp) (by simp))]
    exact ⟨statusBit_withNZ_n hp _ _ _, statusBit_withNZ_z _ _ _ _⟩

theorem cpsrPos_c_ne_v : p.cpsrPos.c ≠ p.cpsrPos.v := by
  have h : ([p.cpsrPos.n, p.cpsrPos.z] ++ [p.cpsrPos.c, p.cpsrPos.v, p.cpsrPos.u, p.cpsrPos.k,
    p.cpsrPos.i, p.cpsrPos.os]).Nodup := cpsrPos_nodup hp
  exact fun e => List.not_nodup_cons_of_mem (by simp [e]) h.of_append_right

theorem statusBit_compareStatus_cv (hcv : p.cmpWritesCV = true) :
    statusBit (compareStatus p psr a b) p.cpsrPos.c = compareCarry a b ∧
      statusBit (compareStatus p psr a b) p.cpsrPos.v = compareOverflow a b := by
  unfold compareStatus
  simp only [hcv, if_true, withCV]
  exact ⟨by rw [statusBit_setStatusBit_of_ne _ _ (cpsrPos_c_ne_v hp), statusBit_setStatusBit_self],
    statusBit_setStatusBit_self _ _ _⟩

end

/-- Settles O36: `cmp` writes the status word of the difference; its four positions are distinct. -/
theorem compareResult : Obligations.CompareResult := by
  intro s m rd o hm hpos a b p
  obtain ⟨hn, hz⟩ := statusBit_compareStatus_nz hpos s.cpsr a b
  refine ⟨compareStatus s.params s.cpsr a b, writesStatus_moveOf hm rfl, ?_, ?_, ?_, fun hcv => ?_⟩
  · rw [hn, negativeFlag_eq_getLsbD]
  · rw [hz, zeroFlag_sub]
  · have hsame := sameStatusBut_compareStatus s.params s.cpsr a b
    simpa only [comparedPositions, true_and] using hsame
  · obtain ⟨hc, hv⟩ := statusBit_compareStatus_cv hpos s.cpsr a b hcv
    exact ⟨hc, by rw [hv, compareOverflow_iff]⟩

/-- Settles O38: `cmf` with a register writes N and Z as `FCmp` gives them. -/
theorem floatCompareResult : Obligations.FloatCompareResult := by
  intro s m rd rm hm hpos p
  refine ⟨floatCompareStatus s.params s.cpsr (s.readReg m rd) (s.readReg m rm),
    writesStatus_moveOf (op := .cmf) (o := .reg rm) hm rfl, ?_, sameStatusBut_withNZ _ _ _ _⟩
  rw [floatCompareStatus, statusBit_withNZ_n hpos, statusBit_withNZ_z]

end Sys2Proof.Machine
end

section
/-! Proofs. `blr`, the kernel mode instructions, and the return from a kernel call and from the timer
interrupt (43_branch.md R207, 44_kernel.md). -/

namespace Sys2Proof.Machine

/-! ### `blr` -/

/-- Settles O40: the link is written before the pc, and the target was computed before both. -/
theorem branchLinkResult : Obligations.BranchLinkResult := by
  intro s m d hm
  have hexec : exec (branchOf .blr d) s =
      .next ((s.writeReg m 14#4 (s.pc + 4#32)).set .pc (s.target m d)) := by
    rw [exec_branchOf, branchMeaning, State.branchLink, State.inMode_of_mode hm]
    rfl
  refine ⟨_, hexec, ?_, State.set_pc_pc _ _, ?_⟩
  · rw [State.readReg_of_ne _ m (by decide), State.set_params,
      State.get_set_of_ne _ _ (home_ne_pc _ m (by decide)), ← State.readReg_of_ne _ m (by decide),
      State.readReg_writeReg_self s m _ (by decide)]
  · refine ((onlyChanges_set s _ _).mono (fun _ => .inr) fun _ => id).trans
      ((onlyChanges_setPc _ _).mono (fun _ => .inl) fun _ => id)

/-! ### `ker` -/

theorem State.get_enter_gpr (s : State) (e : Event) (a : Word) (n : Fin 15) :
    (s.enter e a).get (.gpr n) = s.get (.gpr n) := by
  cases e <;> rfl

theorem State.get_leave_gpr (s : State) (e : Event) (n : Fin 15) :
    (s.leave e).get (.gpr n) = s.get (.gpr n) := by
  cases e <;> rfl

theorem exec_ker {s : State} (hm : s.mode = some .user) (hbank : s.params.banking = .banked)
    (hos : s.flag s.params.cpsrPos.os = true) (imm : BitVec 20) :
    exec (.ker imm) s =
      .next ((s.set (.gpr 0) (extend s.params.kerImmExt imm)).enter .kernelCall (s.pc + 4#32)) := by
  change execKer imm s = _
  rw [execKer, State.inMode_of_mode hm, hbank]
  simp [hos]

/-- The registers that taking an event writes. -/
def Event.writes (e : Event) (r : Register) : Prop :=
  r = .pc ∨ r = .cpsr ∨ r = e.savedStatus ∨ r = e.link

theorem onlyChanges_enter (s : State) (e : Event) (a : Word) :
    OnlyChanges s (s.enter e a) e.writes noByte := by
  refine ⟨fun r hr => ?_, fun x _ => State.byte?_congr (by simp) (by simp) x, by simp, by simp, by simp,
    by simp⟩
  simp only [Event.writes, not_or] at hr
  obtain ⟨hpc, hcpsr, hsaved, hlink⟩ := hr
  exact State.get_enter_of_ne s e a hpc hcpsr hsaved hlink

/-- Settles O41: the call number is written to r0 and the kernel call's event is taken. -/
theorem kerEntersTheKernel : Obligations.KerEntersTheKernel := by
  intro s imm hm hbank hos hpos
  have hgpr : ((s.set (.gpr 0) (extend s.params.kerImmExt imm)).enter .kernelCall
      (s.pc + 4#32)).get (.gpr 0) = extend s.params.kerImmExt imm := by
    rw [State.get_enter_gpr, State.get_set_self]
  refine ⟨_, exec_ker hm hbank hos imm, fun hext => ?_, fun hext => ?_, rfl, ?_,
    sameStatusBut_withMode _ _ _, rfl, ?_, rfl, ?_⟩
  · rw [hgpr, hext, toNat_extend_zero (by decide)]
  · rw [hgpr, hext, toInt_extend_sign (by decide)]
  · exact modeOf_withMode hpos s.cpsr .kernel
  · rw [State.readReg_of_ne _ _ (by decide), State.enter_params, State.set_params, hbank]
    rfl
  · have hcall := onlyChanges_set s (.gpr 0) (extend s.params.kerImmExt imm)
    refine (hcall.mono (fun r hr => .inr (.inr (.inr (.inr hr)))) fun _ => id).trans
      ((onlyChanges_enter _ .kernelCall _).mono ?_ fun _ => id)
    rintro r (h | h | h | h)
    exacts [.inl h, .inr (.inl h), .inr (.inr (.inl h)), .inr (.inr (.inr (.inl h)))]

/-! ### `srg`, `rfi`, `mkd` and `mks` -/

/-- Settles O42: `srg` writes the CPSR with the one bit set. -/
theorem srgWritesOneStatusBit : Obligations.SrgWritesOneStatusBit := by
  intro s m value pos hm hpriv
  refine ⟨setStatusBit s.cpsr pos value, writesStatus_of_exec ?_, statusBit_setStatusBit_self _ _ _,
    sameStatusBut_setStatusBit _ _ _⟩
  change execSrg value pos s = _
  rw [execSrg, State.privileged_of_mode hm hpriv]

theorem onlyChanges_leave (s : State) (e : Event) :
    OnlyChanges s (s.leave e) (fun r => r = .pc ∨ r = .cpsr) noByte :=
  ((onlyChanges_setPc s _).mono (fun _ => .inl) fun _ => id).trans
    ((onlyChanges_set _ .cpsr _).mono (fun _ => .inr) fun _ => id)

theorem exec_rfi_zero {s : State} (hm : s.mode = some .kernel) :
    exec (.rfi 0#20) s = .next (s.leave .kernelCall) := by
  change execRfi 0#20 s = _
  rw [execRfi, State.privileged_of_mode hm (.inr (by decide)), if_pos ⟨rfl, rfl⟩]

theorem exec_rfi_one {s : State} (hm : s.mode = some .interrupt) :
    exec (.rfi 1#20) s = .next (s.leave .timer) := by
  change execRfi 1#20 s = _
  rw [execRfi, State.privileged_of_mode hm (.inr (by decide)), if_neg (by decide), if_pos ⟨rfl, rfl⟩]

/-- Settles O44: each `rfi` leaves the event of its mode. -/
theorem rfiReturns : Obligations.RfiReturns :=
  fun s => ⟨fun hm => ⟨_, exec_rfi_zero hm, rfl, rfl, onlyChanges_leave s .kernelCall⟩,
    fun hm => ⟨_, exec_rfi_one hm, rfl, rfl, onlyChanges_leave s .timer⟩⟩

theorem krAccessible_iff (p : Params) (n : RegNum) :
    krAccessible p n = true ↔ n.toNat < 7 ∨ p.krStorage = .plain := by
  simp [krAccessible]

theorem kernelHome_ne_pc (n : RegNum) : kernelHome n ≠ .pc := by
  revert n
  decide

/-- Settles O45: the kernel register is written and the pc, which is none of them, advances. -/
theorem mkdWritesTheKernelRegister : Obligations.MkdWritesTheKernelRegister := by
  refine ⟨fun s m krd rm hm hpriv hkr => ?_, rfl, rfl, rfl, rfl, rfl, rfl, rfl, by decide⟩
  have hexec : exec (.mkd krd rm) s = .next (s.set (kernelHome krd) (s.readReg m rm)).advance := by
    change execMkd krd rm s = _
    rw [execMkd, State.privileged_of_mode hm hpriv, if_pos ((krAccessible_iff _ _).mpr hkr)]
  refine ⟨_, hexec, ?_, ?_, ?_⟩
  · rw [State.get_advance_of_ne _ (kernelHome_ne_pc krd), State.get_set_self]
  · rw [State.advance_pc, State.set_pc_of_ne s _ (kernelHome_ne_pc krd)]
  · exact ((onlyChanges_set s _ _).mono (fun _ => .inr) fun _ => id).trans
      ((onlyChanges_advance _).mono (fun _ => .inl) fun _ => id)

/-- Settles O46: `mks` writes rd with the kernel register. -/
theorem mksReadsTheKernelRegister : Obligations.MksReadsTheKernelRegister := by
  intro s m rd krm hm hpriv hrd hkr
  apply writesReg_of_exec hrd
  change execMks rd krm s = _
  rw [execMks, State.privileged_of_mode hm hpriv, State.writing_of_ne hrd,
    if_pos ((krAccessible_iff _ _).mpr hkr)]

/-- Settles O47: the five begin in `State.privileged`. -/
theorem kernelInstructionsFaultInUserMode : Obligations.KernelInstructionsFaultInUserMode := by
  intro s value pos imm r r' hm hpriv
  have hfault : ∀ k, s.privileged k = .fault (.privilegeViolation s.pc) := fun k => by
    rw [State.privileged, State.inMode_of_mode hm, hpriv]
    rfl
  exact ⟨hfault _, hfault _, hfault _, hfault _, hfault _⟩

theorem krAccessible_eq_false {p : Params} {n : RegNum} (hn : 7 ≤ n.toNat)
    (hp : p.krStorage = .refused) : krAccessible p n = false := by
  rw [← Bool.not_eq_true, krAccessible_iff, hp]
  rintro (h | h)
  · omega
  · cases h

/-- Settles O48: each refusal is the branch of the instruction's meaning that its case selects. -/
theorem kernelRefusals : Obligations.KernelRefusals := by
  intro s m imm k r hm
  have ker : exec (.ker imm) s = execKer imm s := rfl
  refine ⟨fun hnone => ?_, fun hbank hu => ?_, fun hbank hu hos => ?_,
    fun hpriv => ⟨fun habsent => ?_, fun h0 h1 => ?_, fun hk hkr => ⟨?_, fun hr => ?_⟩⟩⟩
  · rw [ker, execKer, State.inMode_of_mode hm, hnone]
  · rw [ker, execKer, State.inMode_of_mode hm, hbank]
    exact if_pos hu
  · rw [ker, execKer, State.inMode_of_mode hm, hbank]
    exact (if_neg (not_not.mpr hu)).trans (if_pos hos)
  · change execIoi imm s = _
    rw [execIoi, State.privileged_of_mode hm hpriv, habsent]
  · change execRfi imm s = _
    rw [execRfi, State.privileged_of_mode hm hpriv, if_neg h0, if_neg h1]
  · change execMkd k r s = _
    rw [execMkd, State.privileged_of_mode hm hpriv, krAccessible_eq_false hk hkr]
    rfl
  · change execMks r k s = _
    rw [execMks, State.privileged_of_mode hm hpriv, State.writing_of_ne hr,
      krAccessible_eq_false hk hkr]
    rfl

/-! ### `ioi` -/

theorem OnlyChanges.get_eq {s t : State} {regs : Register → Prop} {bytes : Nat → Prop}
    (h : OnlyChanges s t regs bytes) {r : Register} (hr : ¬ regs r) : t.get r = s.get r :=
  h.1 r hr

/-- Writing the registers from number `n` on changes no other register. -/
theorem onlyChanges_writeGeneralRegs (m : Mode) (values : List Word) :
    ∀ (s : State) (n : Nat), n + values.length ≤ 15 →
      OnlyChanges s (s.writeGeneralRegs m n values)
        (fun r => ∃ k, n ≤ k ∧ k < 15 ∧ r = home s.params.banking m (BitVec.ofNat 4 k)) noByte := by
  induction values with
  | nil => intro s n _; exact ⟨fun _ _ => rfl, fun _ _ => rfl, rfl, rfl, rfl, rfl⟩
  | cons v rest ih =>
    intro s n hle
    simp only [List.length_cons] at hle
    refine ((onlyChanges_set s _ v).mono ?_ fun _ => id).trans ((ih _ (n + 1) (by omega)).mono ?_
      fun _ => id)
    · rintro r rfl
      exact ⟨n, le_refl n, by omega, rfl⟩
    · rintro r ⟨k, hk, hk15, rfl⟩
      exact ⟨k, by omega, hk15, by rw [State.set_params]⟩

theorem ofNat_ne_fifteen {n : Nat} (h : n < 15) : BitVec.ofNat 4 n ≠ 15#4 := by
  intro e
  have := congrArg BitVec.toNat e
  simp at this
  omega

theorem ofNat_injective {n n' : Nat} (h : n < 15) (h' : n' < 15)
    (e : BitVec.ofNat 4 n = BitVec.ofNat 4 n') : n = n' := by
  have := congrArg BitVec.toNat e
  simp at this
  omega

/-- Each register written reads back its value: the later writes go to other numbers. -/
theorem readReg_writeGeneralRegs (m : Mode) (values : List Word) :
    ∀ (s : State) (n i : Nat), n + values.length ≤ 15 → ∀ hi : i < values.length,
      (s.writeGeneralRegs m n values).readReg m (BitVec.ofNat 4 (n + i)) = values[i] := by
  induction values with
  | nil => intro s n i _ hi; simp at hi
  | cons v rest ih =>
    intro s n i hle hi
    simp only [List.length_cons] at hle hi
    cases i with
    | zero =>
      have h15 : BitVec.ofNat 4 n ≠ 15#4 := ofNat_ne_fifteen (by omega)
      have hframe := onlyChanges_writeGeneralRegs m rest (s.writeReg m (BitVec.ofNat 4 n) v) (n + 1)
        (by omega)
      rw [State.writeGeneralRegs, Nat.add_zero n, State.readReg_of_ne _ m h15,
        State.writeGeneralRegs_params, hframe.get_eq ?_, ← State.readReg_of_ne _ m h15,
        State.readReg_writeReg_self s m v h15]
      · rfl
      · rintro ⟨k, hk, hk15, e⟩
        have := ofNat_injective (by omega) hk15 (home_injective _ m e)
        omega
    | succ i =>
      have hnum : n + (i + 1) = n + 1 + i := by omega
      rw [State.writeGeneralRegs, hnum, ih _ (n + 1) i (by omega) (by omega)]
      rfl

theorem writeGeneralRegs_pc (s : State) (m : Mode) (values : List Word) (h : values.length ≤ 15) :
    (s.writeGeneralRegs m 0 values).pc = s.pc := by
  refine (onlyChanges_writeGeneralRegs m values s 0 (by omega)).get_eq (r := .pc) ?_
  rintro ⟨k, -, hk, e⟩
  exact home_ne_pc _ m (ofNat_ne_fifteen hk) e.symm

theorem State.get_mem_ioHistory (s : State) (mem : Memory) (history : List IoStep) (r : Register) :
    State.get { s with mem := mem, ioHistory := history } r = s.get r := by
  cases r <;> rfl

theorem State.readReg_mem_ioHistory (s : State) (mem : Memory) (history : List IoStep) (m : Mode)
    (r : RegNum) :
    State.readReg { s with mem := mem, ioHistory := history } m r = s.readReg m r := by
  simp only [State.readReg, State.get_mem_ioHistory]

theorem exec_ioi {s : State} {m : Mode} (hm : s.mode = some m)
    (hpriv : s.params.privCheck = false ∨ m ≠ .user) (hdev : s.params.ioDevice = .given)
    (location : BitVec 20) :
    let regs : Vector Word 15 := s.generalRegs m
    let answer := Config.ioDevice location regs s.mem s.ioHistory
    exec (.ioi location) s =
      .next { (s.writeGeneralRegs m 0 answer.1.toList).advance with
        mem := memoryOf s.params.memMap answer.2
        ioHistory := s.ioHistory ++ [{ location := location, regs := regs, mem := s.mem }] } := by
  change execIoi location s = _
  rw [execIoi, State.privileged_of_mode hm hpriv, hdev]

/-- Settles O43: r0 to r14 are written one by one with the device's answer, then the memory and the
history. -/
theorem ioiAppliesTheDevice : Obligations.IoiAppliesTheDevice := by
  intro s m location hm hpriv hdev regs answer
  have hlen : answer.1.toList.length = 15 := Vector.length_toList
  obtain ⟨hother, -, htimer, -, hdraws, hparams⟩ :=
    onlyChanges_writeGeneralRegs m answer.1.toList s 0 (by omega)
  refine ⟨_, exec_ioi hm hpriv hdev location, fun i => ?_, rfl, ?_, rfl, fun r hpc hr => ?_, htimer,
    hdraws, hparams⟩
  · have hread := readReg_writeGeneralRegs m answer.1.toList s 0 i.val (by omega) (by omega)
    rw [Nat.zero_add] at hread
    rw [State.readReg_mem_ioHistory, State.readReg_advance _ m (ofNat_ne_fifteen i.isLt)]
    exact hread.trans (Vector.getElem_toList _)
  · exact congrArg (· + 4#32) (writeGeneralRegs_pc s m answer.1.toList (by omega))
  · rw [State.get_mem_ioHistory, State.get_advance_of_ne _ hpc]
    refine hother r ?_
    rintro ⟨k, -, hk, e⟩
    exact hr _ (ofNat_ne_fifteen hk) e

/-! ### The return undoes the entry -/

/-- Settles O49: `rfi 0` brings back the status and the return address that the call saved, and the call
wrote no register of the user bank but r0. -/
theorem rfiUndoesKer : Obligations.RfiUndoesKer := by
  intro s t imm hpos hker
  obtain ⟨hm, hbank, -, rfl⟩ := execKer_next hker
  have hkernel : State.mode ((s.set (.gpr 0) (extend s.params.kerImmExt imm)).enter .kernelCall
      (s.pc + 4#32)) = some .kernel := modeOf_withMode hpos s.cpsr .kernel
  refine ⟨_, exec_rfi_zero hkernel, rfl, hm, rfl, fun r h0 h15 => ?_,
    State.byte?_congr (by simp) (by simp)⟩
  rw [State.readReg_of_ne _ _ h15, State.readReg_of_ne _ _ h15]
  simp only [State.leave_params, State.enter_params, State.set_params]
  obtain ⟨n, hn⟩ : ∃ n, home s.params.banking .user r = .gpr n := by
    rcases home_user_cases s.params.banking r with hr | hr
    · exact absurd hr (home_ne_pc _ _ h15)
    · exact hr
  have hne : home s.params.banking .user r ≠ .gpr 0 := by
    intro e
    refine h0 (home_injective s.params.banking .user (e.trans ?_))
    exact (home_of_lt_thirteen _ _ 0 (by decide)).symm
  rw [hn] at hne ⊢
  rw [State.get_leave_gpr, State.get_enter_gpr, State.get_set_of_ne _ _ hne]

/-- Settles O50: `rfi 1` brings back the status and the pc that the entry saved, and the entry wrote no
other register. -/
theorem rfiUndoesTheTimerInterrupt : Obligations.RfiUndoesTheTimerInterrupt := by
  intro s m hpos hm
  have hint : s.takeTimer.mode = some .interrupt := modeOf_withMode hpos s.cpsr .interrupt
  refine ⟨_, exec_rfi_one hint, rfl, hm, rfl, fun r hipsr hlink => ?_,
    State.byte?_congr (by simp) (by simp)⟩
  by_cases hpc : r = .pc
  · rw [hpc]; rfl
  · by_cases hcpsr : r = .cpsr
    · rw [hcpsr]; rfl
    · rw [State.get_leave_of_ne _ _ hpc hcpsr, State.get_takeTimer_of_ne _ hpc hcpsr hipsr hlink]

end Sys2Proof.Machine
end

section
/-! Proofs. What the fields alone make an instruction refuse, and the assembler's spelling
(10_state.md R26, 40_load_store.md R125, 30_encoding.md section 5). -/

namespace Sys2Proof.Machine

/-! ### A destination or a writeback base of 15 -/

section
variable {s : State} {m : Mode} (hm : s.mode = some m)
include hm

/-- A load refuses register 15 as its destination and as its base with writeback. -/
theorem State.load_of_fifteen (read : Word → Except Fault Word) {rd : RegNum} {form : AddrForm}
    (h : rd = 15#4 ∨ form.writebackBase = some 15#4) :
    s.load read rd form = .refused (.writeToPc s.pc) := by
  rw [State.load, State.inMode_of_mode hm, State.guardLoad, if_pos h]

theorem State.store_of_fifteen (write : Word → Word → Except Fault State) (rd : RegNum)
    {form : AddrForm} (h : form.writebackBase = some 15#4) :
    s.store write rd form = .refused (.writeToPc s.pc) := by
  rw [State.store, State.inMode_of_mode hm, State.guardStore, if_pos h]

theorem State.load_of_base_eq (read : Word → Except Fault Word) {rd : RegNum} {form : AddrForm}
    (hrd : rd ≠ 15#4) (h : form.writebackBase = some rd) :
    s.load read rd form = .refused (.loadBaseEqualsDest s.pc) := by
  have h15 : ¬ (rd = 15#4 ∨ form.writebackBase = some 15#4) := by simp [h, hrd]
  rw [State.load, State.inMode_of_mode hm, State.guardLoad, if_neg h15, if_pos h]

theorem State.store_of_base_eq (write : Word → Word → Except Fault State) {rd : RegNum}
    {form : AddrForm} (hrd : rd ≠ 15#4) (h : form.writebackBase = some rd) :
    s.store write rd form = .refused (.storeBaseEqualsSource s.pc) := by
  have h15 : form.writebackBase ≠ some 15#4 := by simp [h, hrd]
  rw [State.store, State.inMode_of_mode hm, State.guardStore, if_neg h15, if_pos h]

/-- Every meaning that tests its destination first refuses 15. -/
theorem State.inMode_writing_fifteen (k : Mode → Result) :
    (s.inMode fun m => s.writing 15#4 (k m)) = .refused (.writeToPc s.pc) :=
  State.inMode_of_mode hm _

theorem arithMeaning_of_fifteen (op : ArithOp) (rm : RegNum) (o : ArithOperand) :
    arithMeaning op 15#4 rm o s = .refused (.writeToPc s.pc) := by
  cases op with
  | adf | suf | muf | dif => cases o <;> exact State.inMode_writing_fifteen hm _
  | _ => exact State.inMode_writing_fifteen hm _

theorem moveMeaning_of_fifteen {op : MoveOp} (hop : op.writesRd = true) (o : MoveOperand) :
    moveMeaning op 15#4 o s = .refused (.writeToPc s.pc) := by
  cases op with
  | cmp | tst | teq | cmf => cases hop
  | fti => cases o <;> exact State.inMode_writing_fifteen hm _
  | _ => exact State.inMode_writing_fifteen hm _

end

theorem writesPc_iff (sh : Shape) :
    sh.writesPc = true ↔ sh.destReg = some 15#4 ∨ sh.baseReg = some 15#4 := by
  simp [Shape.writesPc]

/-- Settles O51: each family tests register 15 before anything but the mode and, for `mks`, the
privilege. -/
theorem writeToPcIsRefused : Obligations.WriteToPcIsRefused := by
  intro i s m hpc hm hmks
  rw [exec_eq_execShape]
  rw [writesPc_iff] at hpc
  cases hsh : i.shape with
  | loadStore op rd form =>
    rw [hsh] at hpc
    cases op with
    | ldr | ldb => exact State.load_of_fifteen hm _ (hpc.imp_left Option.some.inj)
    | str | stb => exact State.store_of_fifteen hm _ rd (hpc.resolve_left nofun)
  | arith op rd rm o =>
    rw [hsh] at hpc
    obtain rfl : rd = 15#4 := Option.some.inj (hpc.resolve_right nofun)
    exact arithMeaning_of_fifteen hm op rm o
  | move op rd o =>
    rw [hsh] at hpc
    have hdest : (Shape.move op rd o).destReg = some 15#4 := hpc.resolve_right nofun
    rw [Shape.destReg, Option.ite_none_right_eq_some] at hdest
    obtain ⟨hop, hrd⟩ := hdest
    obtain rfl : rd = 15#4 := Option.some.inj hrd
    exact moveMeaning_of_fifteen hm hop o
  | branch op d =>
    rw [hsh] at hpc
    exact absurd hpc (not_or.mpr ⟨nofun, nofun⟩)
  | kernel k =>
    rw [hsh] at hpc
    have hdest : (Shape.kernel k).destReg = some 15#4 := hpc.resolve_right nofun
    cases k with
    | mks rd krm =>
      obtain rfl : rd = 15#4 := Option.some.inj hdest
      have hpriv : s.params.privCheck = false ∨ m ≠ .user :=
        hmks.resolve_left fun h => h 15#4 krm ((shape_eq_iff _ _).mp hsh)
      exact State.privileged_of_mode hm hpriv _
    | ker | srg | ioi | rfi | mkd => cases hdest

/-- Settles O52: the second test of each guard, where rd is not 15. -/
theorem writebackToOwnRegisterIsRefused : Obligations.WritebackToOwnRegisterIsRefused := by
  intro s m rd form hm hrd hbase
  rw [exec_ldrOf, exec_ldbOf, exec_strOf, exec_stbOf]
  exact ⟨State.load_of_base_eq hm _ hrd hbase, State.load_of_base_eq hm _ hrd hbase,
    State.store_of_base_eq hm _ hrd hbase, State.store_of_base_eq hm _ hrd hbase⟩

/-! ### Ill-formed instructions -/

section
variable {i : Instr} {s t : State} (h : exec i s = .next t)
include h

/-- An instruction that completes writes register 15 neither as destination nor as base. -/
theorem writesPc_eq_false_of_exec : i.shape.writesPc = false := by
  obtain ⟨m, hm, -⟩ := exec_effect h
  rw [← Bool.not_eq_true]
  intro hpc
  by_cases hmks : ∃ rd krm, i = .mks rd krm
  · obtain ⟨rd, krm, rfl⟩ := hmks
    obtain ⟨-, -, -, hrd, -⟩ := execMks_next h
    rcases (writesPc_iff _).mp hpc with hdest | hbase
    · exact hrd (Option.some.inj hdest)
    · cases hbase
  · have hrefused := writeToPcIsRefused i s m hpc hm (.inl fun rd krm e => hmks ⟨rd, krm, e⟩)
    rw [hrefused] at h
    cases h

theorem baseIsRd_eq_false_of_exec : i.shape.baseIsRd = false := by
  rw [exec_eq_execShape] at h
  cases hsh : i.shape with
  | loadStore op rd form =>
    rw [hsh] at h
    have hne : form.writebackBase ≠ some rd := by
      cases op with
      | ldr | ldb =>
        obtain ⟨-, -, -, -, -, hne, -⟩ := State.load_next h
        exact hne
      | str | stb =>
        obtain ⟨-, -, -, -, hne, -⟩ := State.store_next h
        exact hne
    simpa [Shape.baseIsRd] using hne
  | arith | move | branch | kernel => rfl

theorem floatImmediate_eq_false_of_exec : i.shape.floatImmediate = false := by
  obtain ⟨m, hm, -⟩ := exec_effect h
  rw [← Bool.not_eq_true]
  intro hfloat
  rw [floatImmediateIsRefused i s m hfloat hm] at h
  split at h <;> cases h

theorem badRfi_eq_false_of_exec : i.shape.badRfi = false := by
  rw [exec_eq_execShape] at h
  cases hsh : i.shape with
  | kernel k =>
    rw [hsh] at h
    cases k with
    | rfi imm =>
      obtain ⟨rfl, -⟩ | ⟨rfl, -⟩ := execRfi_next h
      · rfl
      · rfl
    | ker | srg | ioi | mkd | mks => rfl
  | loadStore | arith | move | branch => rfl

end

/-- Settles O53: an instruction that completes passes the four tests of well-formedness. -/
theorem illFormedInstructionsNeverComplete : Obligations.IllFormedInstructionsNeverComplete := by
  intro i s hill t h
  have hwell : i.wellFormed = true := by
    simp [Instr.wellFormed, writesPc_eq_false_of_exec h, baseIsRd_eq_false_of_exec h,
      floatImmediate_eq_false_of_exec h, badRfi_eq_false_of_exec h]
  rw [hill] at hwell
  cases hwell

/-! ### Numbers as fields -/

theorem unsignedField_toNat {width : Nat} (v : BitVec width) :
    unsignedField width v.toNat = some v := by
  have hlt : (v.toNat : Int) < 2 ^ width := by exact_mod_cast v.isLt
  rw [unsignedField, if_pos ⟨Int.natCast_nonneg _, hlt⟩, BitVec.ofInt_natCast, BitVec.ofNat_toNat,
    BitVec.setWidth_eq]

theorem signedField_toInt {width : Nat} (v : BitVec width) :
    signedField width v.toInt = some v := by
  rw [signedField, if_pos ⟨v.le_two_mul_toInt, v.two_mul_toInt_lt⟩, BitVec.ofInt_toInt]

theorem isSome_signedField_iff (width : Nat) (n : Int) :
    (signedField width n).isSome = true ↔ -2 ^ width ≤ 2 * n ∧ 2 * n < 2 ^ width := by
  unfold signedField
  split <;> simp_all

/-- A number written in a signed field is the field's signed value. -/
theorem toInt_of_signedField {width : Nat} {n : Int} {v : BitVec width}
    (h : signedField width n = some v) : v.toInt = n := by
  obtain ⟨hlow, hhigh⟩ := (isSome_signedField_iff width n).mp (by rw [h]; rfl)
  rw [signedField, if_pos ⟨hlow, hhigh⟩] at h
  rw [← Option.some.inj h, BitVec.toInt_ofInt, Int.bmod_eq_of_le_mul_two]
  · push_cast; omega
  · push_cast; omega

/-! ### A listing assembles -/

/-- The number that an `srg` is written with. -/
theorem srg_number_eq_toNat (value : Bool) (pos : BitVec 5) :
    (if value then 32 else 0) + (pos.toNat : Int) =
      (((BitVec.ofBool value ++ pos).setWidth 20).toNat : Int) := by
  revert value pos
  decide

theorem assembleAddress_listAddress (p : Params) (here : Word) (form : AddrForm) :
    assembleAddress p here (listAddress form) = some form := by
  cases form <;> simp only [listAddress, assembleAddress, unsignedField_toNat, signedField_toInt,
    Option.map_some]

theorem assembleShape_listShape (p : Params) (here : Word) (sh : Shape) :
    assembleShape p here (listShape sh) = some sh := by
  cases sh with
  | loadStore op rd form =>
    rw [listShape, assembleShape, assembleAddress_listAddress, Option.map_some]
  | arith op rd rm o =>
    cases o <;> simp only [listShape, assembleShape, assembleArithOp2, signedField_toInt,
      Option.map_some]
  | move op rd o =>
    cases o with
    | reg rm => rfl
    | imm imm =>
      by_cases hop : op = .mva <;>
        simp only [listShape, assembleShape, assembleMoveOp2, hop, if_true, if_false,
          unsignedField_toNat, signedField_toInt, Option.map_some]
  | branch op d =>
    cases d <;> simp only [listShape, assembleShape, assembleDest, unsignedField_toNat,
      signedField_toInt, Option.map_some]
  | kernel k =>
    cases k with
    | srg value pos =>
      obtain ⟨hvalue, hpos⟩ := srg_imm_fields value pos
      rw [listShape, assembleShape, srg_number_eq_toNat, unsignedField_toNat, Option.map_some, hvalue,
        hpos]
    | ker | ioi | rfi | mkd | mks =>
      simp only [listShape, assembleShape, unsignedField_toNat, Option.map_some]

/-- Settles O59: every number of a listing is its field's own value. -/
theorem assemblingAListingGivesTheInstruction :
    Obligations.AssemblingAListingGivesTheInstruction := by
  intro p here i
  rw [assemble, listing, assembleShape_listShape, Option.map_some, instr_shape]

/-! ### `!label` -/

/-- From pc + `PC_READ_OFFSET` the label's offset leads to the label. -/
theorem pc_add_labelOffset (s : State) {width : Nat} {label : Word} {imm : BitVec width}
    (h : signedField width (labelOffset s.params s.pc label) = some imm) :
    s.pc + s.params.pcReadOffset + extend .sign imm = label := by
  rw [extend_sign_eq_ofInt, toInt_of_signedField h, labelOffset, BitVec.ofInt_toInt]
  ring

/-- Settles O60: `!label` is assembled where the offset fits the field, and the form's address is then the
label. -/
theorem labelSpellingReachesTheLabel : Obligations.LabelSpellingReachesTheLabel := by
  intro s m label
  refine ⟨fun op rd i h => ?_, fun op i h => ?_, fun op rd => ?_, fun op => ?_⟩
  · simp only [assemble, assembleShape, assembleAddress, Option.map_map, Option.map_eq_some_iff,
      Function.comp_apply] at h
    obtain ⟨imm, himm, rfl⟩ := h
    exact ⟨imm, rfl, pc_add_labelOffset s himm⟩
  · simp only [assemble, assembleShape, assembleDest, Option.map_map, Option.map_eq_some_iff,
      Function.comp_apply] at h
    obtain ⟨imm, himm, rfl⟩ := h
    exact ⟨imm, rfl, pc_add_labelOffset s himm⟩
  · simp only [assemble, assembleShape, assembleAddress, Option.isSome_map, isSome_signedField_iff]
    omega
  · simp only [assemble, assembleShape, assembleDest, Option.isSome_map, isSome_signedField_iff]
    omega

end Sys2Proof.Machine
end
